-- ==== Sys2Proof/Word.lean ====
section
/-! DEFINITION. The two word sizes of the HMAC-SHA1 OTP core: every register value is an unsigned 32-bit integer
(00_scope.md R8), and byte strings are sequences of 8-bit values (R10). -/

namespace Sys2Proof

/-- A register value, `u32` of R8. `add32` of R9 is `+` on this type. -/
abbrev Word := BitVec 32

/-- One element of a byte string, R10. -/
abbrev Byte := BitVec 8

end Sys2Proof
end

