-- ==== Sys2Proof/Syntax.lean ====
section
/-! DEFINITION. The commands of the core (30_encoding.md R82): one constructor per row of the opcode table. A command word
carries no operand but its interrupt-enable bit (R81, R84); every other operand is read from a fixed register. -/

namespace Sys2Proof

/-- A command, with the IE bit its command word carries (R81). -/
inductive Instr where
  /-- CMD 0, reserved: completes with ERR_CMD (R185). -/
  | reserved0 (ie : Bool)
  /-- CMD 1, GEN: counter to code (R175). -/
  | gen (ie : Bool)
  /-- CMD 2, HMAC: digest only (R120). -/
  | hmac (ie : Bool)
  /-- CMD 3, TRUNC: digest to code (R150). -/
  | trunc (ie : Bool)
  /-- CMD 4, ZEROIZE: clears key material and results (R180). -/
  | zeroize (ie : Bool)
  /-- CMD 5, reserved: completes with ERR_CMD (R185). -/
  | reserved5 (ie : Bool)
  /-- CMD 6, reserved: completes with ERR_CMD (R185). -/
  | reserved6 (ie : Bool)
  /-- CMD 7, reserved: completes with ERR_CMD (R185). -/
  | reserved7 (ie : Bool)
  deriving DecidableEq, Repr

end Sys2Proof
end

