-- ==== Sys2Proof/WellFormed.lean ====
section
/-! DEFINITION. Well-formedness. A command's only operand is one bit, so every term of `Instr` is well-formed; what can be
ill-formed is a command WORD, whose START bit must be 1 (30_encoding.md R80) and whose reserved bits software should write
as 0 (R81, R85). The block ignores the reserved bits, so a word that fails only those checks still decodes. -/

namespace Sys2Proof

/-- Every command is well-formed: its one operand, IE, takes both values (R81). -/
def Instr.WellFormed : Instr → Bool
  | .reserved0 _ => true
  | .gen _ => true
  | .hmac _ => true
  | .trunc _ => true
  | .zeroize _ => true
  | .reserved5 _ => true
  | .reserved6 _ => true
  | .reserved7 _ => true

namespace WellFormed

/-- Bit 0, START, is 1 in a command word (R80, R81). -/
def startSet (v : Word) : Bool := v.getLsbD 0

/-- Bits 3:1 should be 0 (R81). -/
def lowReservedClear (v : Word) : Bool := v.extractLsb' 1 3 == 0

/-- Bit 7 should be 0 (R81). -/
def midReservedClear (v : Word) : Bool := !v.getLsbD 7

/-- Bits 31:9 should be 0 (R81). -/
def highReservedClear (v : Word) : Bool := v.extractLsb' 9 23 == 0

/-- A command word as software should write it (R81, R85). -/
def word (v : Word) : Bool :=
  startSet v && lowReservedClear v && midReservedClear v && highReservedClear v

end WellFormed

end Sys2Proof
end

