-- ==== Sys2Proof/Decode.lean ====
section
/-! DEFINITION. Decoding a 32-bit value written to CTRL (30_encoding.md R81 to R83, R90), total and rejecting by name, and
the encoder, written from the canonical words of R83. -/

namespace Sys2Proof

/-- Why a value written to CTRL is no command. -/
inductive Reject where
  /-- START = 0: a configuration write of IE and CMD (R83); nothing starts. -/
  | configurationWrite
  /-- The table's bits do not make one 32-bit word (R86: every command is one 32-bit word). -/
  | notOneWord
  deriving DecidableEq, Repr

/-- Bit 0, START (R81). -/
def startBit (v : Word) : Bool := v.getLsbD 0

/-- Bits 6:4, CMD (R81). -/
def cmdField (v : Word) : BitVec 3 := v.extractLsb' 4 3

/-- Bit 8, IE (R81). -/
def ieField (v : Word) : Bool := v.getLsbD 8

/-- The command a code selects (R82). -/
def instrOfCode (c : BitVec 3) (ie : Bool) : Instr :=
  match c.toNat with
  | 0 => .reserved0 ie
  | 1 => .gen ie
  | 2 => .hmac ie
  | 3 => .trunc ie
  | 4 => .zeroize ie
  | 5 => .reserved5 ie
  | 6 => .reserved6 ie
  | _ => .reserved7 ie

/-- The command in a 32-bit value written to CTRL: the other bits are ignored (R81, R83). -/
def decode (v : Word) : Except Reject Instr :=
  if startBit v then .ok (instrOfCode (cmdField v) (ieField v)) else .error .configurationWrite

/-- What a value written to CTRL is (R83). -/
inductive CtrlWrite where
  /-- START = 0: IE and CMD are stored and nothing starts. -/
  | configuration (ie : Bool) (cmd : BitVec 3)
  /-- START = 1: a command. -/
  | command (i : Instr)
  deriving DecidableEq, Repr

/-- Decoding is total: every value is a configuration write or a command (R83). -/
def decodeCtrl (v : Word) : CtrlWrite :=
  match decode v with
  | .ok i => .command i
  | .error _ => .configuration (ieField v) (cmdField v)

/-- The command code of a command (R82). -/
def Instr.code : Instr → BitVec 3
  | .reserved0 _ => 0
  | .gen _ => 1
  | .hmac _ => 2
  | .trunc _ => 3
  | .zeroize _ => 4
  | .reserved5 _ => 5
  | .reserved6 _ => 6
  | .reserved7 _ => 7

/-- The IE bit of a command (R81). -/
def Instr.ie : Instr → Bool
  | .reserved0 ie | .gen ie | .hmac ie | .trunc ie | .zeroize ie | .reserved5 ie | .reserved6 ie | .reserved7 ie => ie

/-- IE at its place in a command word: with IE = 1, add 0x100 (R83). -/
def ieBit (ie : Bool) : Word := if ie then 0x100 else 0

/-- The canonical command word (R83): reserved bits 0. -/
def encode : Instr → Word
  | .reserved0 ie => 0x00000001 + ieBit ie
  | .gen ie => 0x00000011 + ieBit ie
  | .hmac ie => 0x00000021 + ieBit ie
  | .trunc ie => 0x00000031 + ieBit ie
  | .zeroize ie => 0x00000041 + ieBit ie
  | .reserved5 ie => 0x00000051 + ieBit ie
  | .reserved6 ie => 0x00000061 + ieBit ie
  | .reserved7 ie => 0x00000071 + ieBit ie

/-- One command word given as `nbits` bits of the table, higher bits 0: the port moves it as one 32-bit value, so no byte
order enters (20_memory.md R66). -/
def tableWord (nbits w : Nat) : Except Reject Word :=
  if w < 2 ^ nbits ∧ w < 2 ^ 32 then .ok (BitVec.ofNat 32 w) else .error .notOneWord

/-- The command the decoder reads from a table word. -/
def decodeTableWord (nbits w : Nat) : Option Instr :=
  match tableWord nbits w with
  | .error _ => none
  | .ok v =>
    match decode v with
    | .ok i => some i
    | .error _ => none

end Sys2Proof
end

