-- ==== Sys2Proof/Config.lean ====
section
/-! DEFINITION. What an implementation of the core fixes (00_scope.md R7), and the values the spec leaves open, which are
opaque constants: nothing can be proved of their values. -/

namespace Sys2Proof.Config

/-- `ID_VALUE`, R7 and R24: the ASCII bytes "OTP1". -/
def idValue : Word := 0x4F545031

/-- `KEY_MAX`, R7: the largest legal KEY_LEN, in bytes. -/
def keyMax : Nat := 64

/-- `DIGITS_MAX`, R7: the largest legal digit count. -/
def digitsMax : Nat := 10

/-- `DIGITS_DEFAULT`, R7: the reset value of DIGITS. -/
def digitsDefault : BitVec 8 := 6

/-- `BLOCK_BYTES`, R7: the HMAC block size. -/
def blockBytes : Nat := 64

/-- The size in bytes of the register window, R60. -/
def windowBytes : Nat := 0x400

/-- The platform places the window at a multiple of 0x400 that the spec leaves open (R60, U4): FREE VALUE, log entry 6. -/
opaque baseIndex : Nat

/-- `BASE`, the platform byte address of the register window, a multiple of 0x400 (R60). -/
def base : Nat := windowBytes * baseIndex

/-- `draw()` of R13 and R62: the n-th unspecified value a read of a result register while BUSY returns. FREE VALUE, log entry 5. -/
opaque draw : Nat → Word

/-- The contents of word n of the window before the first reset (R262). FREE VALUE, log entry 8. -/
opaque powerOnWord : Nat → Word

/-- Whether the core is BUSY before the first reset (R262: PHASE is either value). FREE VALUE, log entry 8. -/
opaque powerOnBusy : Bool

/-- `STEP` of R7, the default step of the host's Clock in seconds. -/
def stepDefault : Nat := 30

/-- `LOOKBACK` of R7, the default number of steps the Verifier checks before the current one. -/
def lookbackDefault : Nat := 1

/-- `LOOKAHEAD` of R7, the default number of steps the Verifier checks after the current one. -/
def lookaheadDefault : Nat := 0

end Sys2Proof.Config
end

