-- ==== Sys2Proof/Machine/Bytes.lean ====
section
/-! DEFINITION. The notation of 00_scope.md over words and byte strings: rotation (R9), big-endian reading and writing
(R10), decimal rendering (R14). -/

namespace Sys2Proof.Machine

/-- `rotl32(x, n)` for `0 < n < 32` (R9). -/
def rotl32 (x : Word) (n : Nat) : Word := (x <<< n) ||| (x >>> (32 - n))

/-- `not32(x)` (R9). -/
def not32 (x : Word) : Word := x ^^^ 0xFFFFFFFF

/-- `be4(x)`: the four bytes of a word, most significant first (R107). -/
def be4 (x : Word) : List Byte :=
  [x.extractLsb' 24 8, x.extractLsb' 16 8, x.extractLsb' 8 8, x.extractLsb' 0 8]

/-- `be32(S, i)`: the big-endian reading of bytes i to i+3 (R10). A byte past the end of the string reads 0, which no rule
of the block ever reads. -/
def be32 (S : List Byte) (i : Nat) : Word :=
  S.getD i 0 ++ S.getD (i + 1) 0 ++ S.getD (i + 2) 0 ++ S.getD (i + 3) 0

/-- `be_bytes8(v)`: byte k is `v[63-8k : 56-8k]` (R10). -/
def beBytes8 (v : BitVec 64) : List Byte := (List.range 8).map fun k => v.extractLsb' (56 - 8 * k) 8

/-- `dec(n, d)`: character i is `0x30 + floor(n / 10^(d-1-i)) mod 10` (R14). -/
def dec (n d : Nat) : List Byte :=
  (List.range d).map fun i => BitVec.ofNat 8 (0x30 + n / 10 ^ (d - 1 - i) % 10)

/-- The bytes a list of big-endian words holds (R34, R38, R42). -/
def wordsBytes (ws : List Word) : List Byte := ws.flatMap be4

end Sys2Proof.Machine
end

