-- ==== Sys2Proof/Machine/State.lean ====
section
/-! DEFINITION. The state of the core (10_state.md R20 to R46) and of the inputs that stand before its port, as plain data;
the reasons a step can stop; the state after reset (70_reset_and_hazards.md R260). -/

namespace Sys2Proof.Machine

/-- The sequencer state `PHASE` (R21). -/
inductive Phase where
  | idle
  | busy
  deriving DecidableEq, Repr

/-- The two agents that take steps (R16). -/
inductive Agent where
  | host
  | core
  deriving DecidableEq, Repr

/-- One bus transaction on the register port (R60): a direction, a word index and, for a write, a data word. -/
inductive Access where
  | read (w : BitVec 8)
  | write (w : BitVec 8) (v : Word)
  deriving DecidableEq, Repr

/-- An input of the machine, taken one at a time in the order of `State.port`. -/
inductive Event where
  /-- A bus transaction of the Host (R61). -/
  | bus (a : Access)
  /-- `MemRead(addr, n)` by the platform (R12): `n` bytes at byte address `addr`. -/
  | memRead (addr n : Nat)
  /-- `MemWrite(addr, n, v)` by the platform (R12). -/
  | memWrite (addr n : Nat) (v : Word)
  /-- A turn offered to the Core: its completion step if it is BUSY (R72), nothing if it is IDLE. -/
  | core
  /-- `rst_n` is asserted and released (R260). -/
  | reset
  deriving DecidableEq, Repr

/-- The registers of the map in R23. -/
inductive Reg where
  | id | caps | ctrl | status | keyLen | digits | counterHi | counterLo | trunc | truncOff | codeVal
  | codeChr (j : Fin 3)
  | key (j : Fin 16)
  | digest (j : Fin 5)
  /-- Reserved words: read 0, writes ignored (R45). -/
  | reserved
  deriving DecidableEq, Repr

/-- Why the machine stops with a fault. The block itself raises none (60_exceptions.md R236). -/
inductive Fault where
  /-- Raised by a platform access whose bytes all lie outside the window `[BASE, BASE + 0x400)` of R60: this block has no
  such address. Safe: the model stops where the platform would route the access elsewhere. -/
  | outsideWindow (addr : Nat)
  deriving DecidableEq, Repr

/-- Why the machine refuses. -/
inductive Refusal where
  /-- For an arm of exec without a meaning; no arm uses it. Safe: nothing is proved of such an instruction. -/
  | notModelled (mnemonic : String)
  /-- Raised by a platform access that touches the window and is not one aligned 32-bit word: R67 says a model refuses it.
  Safe: it errs toward unprovable. -/
  | nonWordAccess (addr n : Nat)
  deriving DecidableEq, Repr

/-- The registers of R23 with the bits their rules store, PHASE and PENDING_CMD (R21, R22), and last the model's own
fields. ID and CAPS are constants (R24, R25) and STATUS.BUSY is a view of PHASE (R29), so they have no field. -/
structure State where
  /-- CTRL.IE, bit 8 (R26). -/
  ie : Bool
  /-- CTRL.CMD, bits 6:4 (R26). -/
  cmd : BitVec 3
  /-- PHASE (R21). -/
  phase : Phase
  /-- PENDING_CMD, meaningful while BUSY (R21). -/
  pendingCmd : BitVec 3
  /-- STATUS.DONE, bit 1 (R28, R30). -/
  done : Bool
  /-- STATUS.WOVR, bit 2 (R28, R31). -/
  wovr : Bool
  /-- STATUS.ERR_CODE, bits 7:4 (R28, R32). -/
  errCode : BitVec 4
  /-- KEY_LEN, bits 7:0 (R33). -/
  keyLen : BitVec 8
  /-- DIGITS, bits 7:0 (R36). -/
  digits : BitVec 8
  /-- COUNTER_HI (R37). -/
  counterHi : Word
  /-- COUNTER_LO (R37). -/
  counterLo : Word
  /-- KEY0 to KEY15 (R34). -/
  key : Vector Word 16
  /-- DIGEST0 to DIGEST4 (R38). -/
  digest : Vector Word 5
  /-- TRUNC, bits 30:0 (R39). -/
  trunc : BitVec 31
  /-- TRUNC_OFF, bits 3:0 (R40). -/
  truncOff : BitVec 4
  /-- CODE_VAL (R41). -/
  codeVal : Word
  /-- CODE_CHR0 to CODE_CHR2 (R42). -/
  codeChr : Vector Word 3
  /-- MODEL'S OWN: the inputs still to be taken, oldest first (log entry 1). -/
  port : List Event
  /-- MODEL'S OWN: the agent whose atomic step is being taken (log entry 2). -/
  turn : Agent
  /-- MODEL'S OWN: the value of the last bus read, the `rdata` output of R87 (log entry 4). -/
  rdata : Word
  /-- MODEL'S OWN: how many unspecified values have been drawn (log entry 5). -/
  draws : Nat
  deriving DecidableEq, Repr

/-- The state after reset: the values of R260, which are the reset column of R23; then the model's own fields, whose values
are DESIGN CHOICES (log entries 1, 2, 4, 5). -/
def State.reset : State where
  ie := false
  cmd := 0
  phase := .idle
  pendingCmd := 0
  done := false
  wovr := false
  errCode := 0
  keyLen := 0
  digits := Config.digitsDefault
  counterHi := 0
  counterLo := 0
  key := Vector.replicate 16 0
  digest := Vector.replicate 5 0
  trunc := 0
  truncOff := 0
  codeVal := 0
  codeChr := Vector.replicate 3 0
  port := []
  turn := .host
  rdata := 0
  draws := 0

end Sys2Proof.Machine
end

