-- ==== Sys2Proof/Machine/Flags.lean ====
section
/-! DEFINITION. The status bits of the core (10_state.md R28 to R32, R46), the error codes (60_exceptions.md R230), the
words CTRL and STATUS read as (20_memory.md R62), and the interrupt output (R240). The core has no arithmetic flags. -/

namespace Sys2Proof.Machine

/-- The errors a completion can raise (R230). -/
inductive CmdError where
  /-- ERR_CMD: PENDING_CMD is a reserved code. -/
  | cmd
  /-- ERR_SECRET: KEY_LEN is 0 or above KEY_MAX. -/
  | secret
  /-- ERR_DIGITS: DIGITS is 0 or above DIGITS_MAX. -/
  | digits
  deriving DecidableEq, Repr

/-- The code of an error (R230). -/
def CmdError.code : CmdError → BitVec 4
  | .cmd => 1
  | .secret => 2
  | .digits => 3

/-- ERR_NONE (R230). -/
def errNone : BitVec 4 := 0

/-- STATUS.BUSY is a view of PHASE (R29). -/
def State.busy (s : State) : Bool :=
  match s.phase with
  | .busy => true
  | .idle => false

/-- A bit at its place in a register word. -/
def bitAt (b : Bool) (n : Nat) : Word := if b then 1 <<< n else 0

/-- What a read of CTRL returns (R26, R62): START reads 0. -/
def State.ctrlWord (s : State) : Word := bitAt s.ie 8 ||| (s.cmd.setWidth 32 <<< 4)

/-- What a read of STATUS returns (R62). -/
def State.statusWord (s : State) : Word :=
  (s.errCode.setWidth 32 <<< 4) ||| bitAt s.wovr 2 ||| bitAt s.done 1 ||| bitAt s.busy 0

/-- What a read of CAPS returns (R25). -/
def capsWord : Word := BitVec.ofNat 32 (Config.digitsMax * 2 ^ 8 + Config.keyMax)

/-- The interrupt output, `irq = CTRL.IE & STATUS.DONE` (R43, R240). -/
def State.irq (s : State) : Bool := s.ie && s.done

end Sys2Proof.Machine
end

