-- ==== Sys2Proof/Machine/Operands.lean ====
section
/-! DEFINITION. The operands of the commands, each assembled from its fixed registers (30_encoding.md R84). -/

namespace Sys2Proof.Machine

/-- `KEYBYTES`, the 64 bytes of KEY0 to KEY15 (R34). -/
def State.keyBytes (s : State) : List Byte := wordsBytes s.key.toList

/-- The secret, `KEYBYTES[0..KEY_LEN)` (R34, R84). -/
def State.secret (s : State) : List Byte := s.keyBytes.take s.keyLen.toNat

/-- `COUNTER = COUNTER_HI * 2^32 + COUNTER_LO` (R37). -/
def State.counter (s : State) : BitVec 64 := s.counterHi ++ s.counterLo

/-- The HMAC message, `be_bytes8(COUNTER)` (R111). -/
def State.message (s : State) : List Byte := beBytes8 s.counter

/-- `digitCount`, DIGITS[7:0] as an unsigned integer (R36, R84). -/
def State.digitCount (s : State) : Nat := s.digits.toNat

/-- `DIGESTBYTES`, the 20 bytes of DIGEST0 to DIGEST4 (R38). -/
def State.digestBytes (s : State) : List Byte := wordsBytes s.digest.toList

/-- `CODECHARS`, the 12 bytes of CODE_CHR0 to CODE_CHR2 (R42). -/
def State.codeChars (s : State) : List Byte := wordsBytes s.codeChr.toList

/-- The legal KEY_LEN values, `1 <= KEY_LEN <= KEY_MAX` (R33). -/
def State.keyLegal (s : State) : Bool := decide (1 ≤ s.keyLen.toNat ∧ s.keyLen.toNat ≤ Config.keyMax)

/-- The legal DIGITS values, `1 <= DIGITS <= DIGITS_MAX` (R36). -/
def State.digitsLegal (s : State) : Bool := decide (1 ≤ s.digits.toNat ∧ s.digits.toNat ≤ Config.digitsMax)

end Sys2Proof.Machine
end

