-- ==== Sys2Proof/Machine/Ops.lean ====
section
/-! DEFINITION. The named operations over the registers: the register map (10_state.md R23), bus reads and writes
(20_memory.md R60 to R65), start and completion of a command (42_generate_zeroize.md R170, R171), reset (R260) and the
state before it (R262). The block takes no exception (R244); `raiseError` is its nearest analogue, and the return from one
is the STATUS write of R245. -/

namespace Sys2Proof.Machine

/-! ### The register map -/

/-- The register at a word index (R23). -/
def regAt (w : BitVec 8) : Reg :=
  match w.toNat with
  | 0 => .id
  | 1 => .caps
  | 2 => .ctrl
  | 3 => .status
  | 4 => .keyLen
  | 5 => .digits
  | 6 => .counterHi
  | 7 => .counterLo
  | 8 => .trunc
  | 9 => .truncOff
  | 10 => .codeVal
  | 12 => .codeChr 0
  | 13 => .codeChr 1
  | 14 => .codeChr 2
  | n =>
    if h : 16 ≤ n ∧ n < 32 then .key ⟨n - 16, by omega⟩
    else if h : 32 ≤ n ∧ n < 37 then .digest ⟨n - 32, by omega⟩
    else .reserved

/-- The word index of a register (R23); of the reserved words, the first. -/
def Reg.index : Reg → BitVec 8
  | .id => 0
  | .caps => 1
  | .ctrl => 2
  | .status => 3
  | .keyLen => 4
  | .digits => 5
  | .counterHi => 6
  | .counterLo => 7
  | .trunc => 8
  | .truncOff => 9
  | .codeVal => 10
  | .codeChr j => BitVec.ofNat 8 (12 + j.val)
  | .key j => BitVec.ofNat 8 (16 + j.val)
  | .digest j => BitVec.ofNat 8 (32 + j.val)
  | .reserved => 11

/-- The result registers, whose reads are unspecified while BUSY: words 8, 9, 10, 12 to 14 and 32 to 36 (R62). -/
def Reg.isResult : Reg → Bool
  | .trunc | .truncOff | .codeVal | .codeChr _ | .digest _ => true
  | _ => false

/-- The registers whose writes are dropped while BUSY: words 4 to 7, 16 to 31 and 32 to 36 (R64). -/
def Reg.isOperand : Reg → Bool
  | .keyLen | .digits | .counterHi | .counterLo | .key _ | .digest _ => true
  | _ => false

/-! ### Reads -/

/-- The word a register stores, zero-extended, as a read shows it (R62): KEY words and reserved words read 0 (R35, R45). -/
def State.readReg (s : State) : Reg → Word
  | .id => Config.idValue
  | .caps => capsWord
  | .ctrl => s.ctrlWord
  | .status => s.statusWord
  | .keyLen => s.keyLen.setWidth 32
  | .digits => s.digits.setWidth 32
  | .counterHi => s.counterHi
  | .counterLo => s.counterLo
  | .trunc => s.trunc.setWidth 32
  | .truncOff => s.truncOff.setWidth 32
  | .codeVal => s.codeVal
  | .codeChr j => s.codeChr[j]
  | .key _ => 0
  | .digest j => s.digest[j]
  | .reserved => 0

/-- Whether a read of word w returns a `draw()` (R62). -/
def readDraws (w : BitVec 8) (s : State) : Bool := s.busy && (regAt w).isResult

/-- `BusRead(w)` (R62). -/
def busRead (w : BitVec 8) (s : State) : Word :=
  if readDraws w s then Config.draw s.draws else s.readReg (regAt w)

/-- A read transaction: the value appears on `rdata`, a used draw is used up, and nothing else changes (R62, R69). -/
def performRead (w : BitVec 8) (s : State) : State :=
  { s with rdata := busRead w s, draws := if readDraws w s then s.draws + 1 else s.draws }

/-! ### Start and completion -/

/-- `StartCommand(c)` (R170). -/
def startCommand (c : BitVec 3) (s : State) : State :=
  { s with phase := .busy, pendingCmd := c, done := false, errCode := errNone }

/-- `finish(e)` (R171). -/
def finish (e : BitVec 4) (s : State) : State := { s with phase := .idle, done := true, errCode := e }

/-- `raise Error(e)`: finish at once, no result register written (R171, R234). -/
def raiseError (e : CmdError) (s : State) : State := finish e.code s

/-! ### Writes -/

/-- A write dropped because the core is BUSY (R64, R235). -/
def dropWrite (s : State) : State := { s with wovr := true }

/-- `StatusWrite(v)` (R65). -/
def statusWrite (v : Word) (s : State) : State :=
  { s with
    done := if v.getLsbD 1 then false else s.done
    wovr := if v.getLsbD 2 then false else s.wovr }

/-- A write to CTRL: while IDLE it stores IE and CMD and, with START, starts a command (R63); while BUSY it stores IE only,
and a START is dropped (R64). -/
def ctrlWrite (v : Word) (s : State) : State :=
  match s.phase with
  | .idle =>
    let s1 := { s with ie := ieField v, cmd := cmdField v }
    if startBit v then startCommand (cmdField v) s1 else s1
  | .busy =>
    let s1 := { s with ie := ieField v }
    if startBit v then dropWrite s1 else s1

/-- What a write to a register other than CTRL and STATUS stores while IDLE (R63). -/
def storeReg (r : Reg) (v : Word) (s : State) : State :=
  match r with
  | .keyLen => { s with keyLen := v.setWidth 8 }
  | .digits => { s with digits := v.setWidth 8 }
  | .counterHi => { s with counterHi := v }
  | .counterLo => { s with counterLo := v }
  | .key j => { s with key := s.key.set j v }
  | .digest j => { s with digest := s.digest.set j v }
  | .id | .caps | .ctrl | .status | .trunc | .truncOff | .codeVal | .codeChr _ | .reserved => s

/-- A write to a register other than CTRL and STATUS: stored while IDLE (R63); while BUSY dropped, if it is an operand
register, and of no effect otherwise (R64). -/
def dataWrite (r : Reg) (v : Word) (s : State) : State :=
  match s.phase with
  | .idle => storeReg r v s
  | .busy => if r.isOperand then dropWrite s else s

/-- `BusWrite(w, v)` (R63, R64). -/
def busWrite (w : BitVec 8) (v : Word) (s : State) : State :=
  match regAt w with
  | .ctrl => ctrlWrite v s
  | .status => statusWrite v s
  | r => dataWrite r v s

/-! ### A command's two atomic steps -/

/-- The atomic step of command i that is due: on the Host's turn its CTRL write, which starts it or, while BUSY, is dropped
(R63, R64, R170); on the Core's turn its completion, enabled exactly while BUSY (R171, R72). On a turn of the Core while
IDLE no step is enabled and nothing changes (log entry 3). -/
def commandStep (i : Instr) (complete : State → State) (s : State) : Host.Outcome State Fault Refusal :=
  match s.turn with
  | .host => .next (ctrlWrite (encode i) s)
  | .core =>
    match s.phase with
    | .busy => .next (complete s)
    | .idle => .next s

/-! ### Platform addresses -/

/-- Where a platform access goes (R60, R67). -/
inductive Route where
  | word (w : BitVec 8)
  | outside
  | nonWord
  deriving DecidableEq, Repr

/-- The window is `[BASE, BASE + 0x400)` and word w sits at `BASE + 4*w` (R60); an access in it that is not one aligned
32-bit word is outside the interface (R67). DESIGN CHOICE (log entry 6): no rule says what an access of 0 bytes is; here it
is outside up to BASE itself and from the window's end on, and no word in between. -/
def route (addr n : Nat) : Route :=
  if addr + n ≤ Config.base ∨ Config.base + Config.windowBytes ≤ addr then .outside
  else if n = 4 ∧ Config.base ≤ addr ∧ (addr - Config.base) % 4 = 0 then
    .word (BitVec.ofNat 8 ((addr - Config.base) / 4))
  else .nonWord

/-! ### Reset -/

/-- Reset of the block: every register and the sequencer take their reset values (R260) and a command in progress is
abandoned (R261). The inputs still to come and the model's read output and draw count are not the block's (log entry 9). -/
def resetBlock (s : State) : State :=
  { State.reset with port := s.port, rdata := s.rdata, draws := s.draws }

/-- The block before its first reset: every register holds an unspecified value and PHASE is either value (R262, log entry
8). -/
def State.powerOn : State where
  ie := (Config.powerOnWord 2).getLsbD 8
  cmd := (Config.powerOnWord 2).extractLsb' 4 3
  phase := if Config.powerOnBusy then .busy else .idle
  pendingCmd := (Config.powerOnWord 256).extractLsb' 0 3
  done := (Config.powerOnWord 3).getLsbD 1
  wovr := (Config.powerOnWord 3).getLsbD 2
  errCode := (Config.powerOnWord 3).extractLsb' 4 4
  keyLen := (Config.powerOnWord 4).setWidth 8
  digits := (Config.powerOnWord 5).setWidth 8
  counterHi := Config.powerOnWord 6
  counterLo := Config.powerOnWord 7
  key := Vector.ofFn fun j => Config.powerOnWord (16 + j.val)
  digest := Vector.ofFn fun j => Config.powerOnWord (32 + j.val)
  trunc := (Config.powerOnWord 8).setWidth 31
  truncOff := (Config.powerOnWord 9).setWidth 4
  codeVal := Config.powerOnWord 10
  codeChr := Vector.ofFn fun j => Config.powerOnWord (12 + j.val)
  port := []
  turn := .host
  rdata := 0
  draws := 0

end Sys2Proof.Machine
end

