-- ==== Sys2Proof/Machine/Sha1.lean ====
section
/-! DEFINITION. SHA-1 (40_hmac_sha1.md R100 to R108) and HMAC-SHA1 (R110, R112), as the rules give them. -/

namespace Sys2Proof.Machine

/-- `z` of R101: the least non-negative integer with `(len + 1 + z + 8) mod 64 = 0`. -/
def padZeros (len : Nat) : Nat := (64 - (len + 9) % 64) % 64

/-- `PAD(M)` (R101). -/
def pad (M : List Byte) : List Byte :=
  M ++ [0x80] ++ List.replicate (padZeros M.length) 0 ++ beBytes8 (BitVec.ofNat 64 (8 * M.length))

/-- The sixteen big-endian words of block n of a padded message (R102). -/
def blockWords (P : List Byte) (n : Nat) : List Word := (List.range 16).map fun t => be32 P (64 * n + 4 * t)

/-- The five words H0 to H4, or the five working variables a to e (R103, R107). -/
structure Chain where
  a : Word
  b : Word
  c : Word
  d : Word
  e : Word
  deriving DecidableEq, Repr

/-- The initial chaining value (R103). -/
def chainInit : Chain := ⟨0x67452301, 0xEFCDAB89, 0x98BADCFE, 0x10325476, 0xC3D2E1F0⟩

/-- The round constant `K_t` (R104). -/
def roundConst (t : Nat) : Word :=
  if t < 20 then 0x5A827999 else if t < 40 then 0x6ED9EBA1 else if t < 60 then 0x8F1BBCDC else 0xCA62C1D6

/-- The round function `f_t` (R105). -/
def roundFun (t : Nat) (b c d : Word) : Word :=
  if t < 20 then (b &&& c) ||| (not32 b &&& d)
  else if t < 40 then b ^^^ c ^^^ d
  else if t < 60 then (b &&& c) ||| (b &&& d) ||| (c &&& d)
  else b ^^^ c ^^^ d

/-- `W_t` from the words before it, newest first: W_{t-3}, W_{t-8}, W_{t-14} and W_{t-16} (R106). -/
def nextScheduleWord (newestFirst : List Word) : Word :=
  rotl32 (newestFirst.getD 2 0 ^^^ newestFirst.getD 7 0 ^^^ newestFirst.getD 13 0 ^^^ newestFirst.getD 15 0) 1

/-- `k` further words of the schedule, newest first (R106). -/
def extendSchedule : Nat → List Word → List Word
  | 0, ws => ws
  | k + 1, ws => extendSchedule k (nextScheduleWord ws :: ws)

/-- `W_0` to `W_79` of a block (R106). -/
def schedule (m : List Word) : List Word := (extendSchedule 64 m.reverse).reverse

/-- Round t (R107): `T <- add32(rotl32(a,5), f_t(b,c,d), e, K_t, W[t])`. -/
def sha1Round (t : Nat) (w : Word) (s : Chain) : Chain :=
  ⟨rotl32 s.a 5 + roundFun t s.b s.c s.d + s.e + roundConst t + w, s.a, rotl32 s.b 30, s.c, s.d⟩

/-- The rounds from t on, one per word (R107). -/
def rounds : Nat → List Word → Chain → Chain
  | _, [], s => s
  | t, w :: ws, s => rounds (t + 1) ws (sha1Round t w s)

/-- Word by word addition of two chains (R107). -/
def Chain.add (s t : Chain) : Chain := ⟨s.a + t.a, s.b + t.b, s.c + t.c, s.d + t.d, s.e + t.e⟩

/-- The compression function on one block (R107). -/
def compress (h : Chain) (m : List Word) : Chain := h.add (rounds 0 (schedule m) h)

/-- The digest bytes of a chain (R107). -/
def Chain.bytes (h : Chain) : List Byte := be4 h.a ++ be4 h.b ++ be4 h.c ++ be4 h.d ++ be4 h.e

/-- The chain after all blocks of a padded message, in order (R107). -/
def chainOf (P : List Byte) : Chain :=
  (List.range (P.length / 64)).foldl (fun h n => compress h (blockWords P n)) chainInit

/-- `SHA1(M)` (R100, R107). -/
def sha1 (M : List Byte) : List Byte := (chainOf (pad M)).bytes

/-- The key block `K0`: the key followed by zero bytes up to 64 (R110). -/
def keyBlock (K : List Byte) : List Byte := K ++ List.replicate (Config.blockBytes - K.length) 0

/-- The key block XORed bytewise with ipad or opad (R112). -/
def xorPad (K : List Byte) (b : Byte) : List Byte := (keyBlock K).map (· ^^^ b)

/-- `HMAC_SHA1(Kx, MSG)` (R112), for keys of at most 64 bytes. -/
def hmacSha1 (K M : List Byte) : List Byte := sha1 (xorPad K 0x5C ++ sha1 (xorPad K 0x36 ++ M))

end Sys2Proof.Machine
end

