-- ==== Sys2Proof/Machine/Truncation.lean ====
section
/-! DEFINITION. Modular truncation and the decimal formatter (41_truncation_format.md R140 to R144). -/

namespace Sys2Proof.Machine

/-- `off = D[19] & 0x0F` (R140). -/
def truncOffset (D : List Byte) : BitVec 4 := (D.getD 19 0).extractLsb' 0 4

/-- `tv = be32(D, off) & 0x7FFFFFFF` (R141). -/
def truncValue (D : List Byte) : Word := be32 D (truncOffset D).toNat &&& 0x7FFFFFFF

/-- `code = tv mod 10^d`, on exact integers (R142). -/
def reduceCode (tv : Word) (d : Nat) : Nat := tv.toNat % 10 ^ d

/-- The 12 bytes of CODECHARS: `dec(code, d)`, then 0x00 (R143). -/
def codeBuffer (code d : Nat) : List Byte := dec code d ++ List.replicate (12 - d) 0

/-- What `TRUNC_FORMAT` returns (R144). -/
structure TruncResult where
  off : BitVec 4
  tv : Word
  code : Nat
  chars : List Byte
  deriving DecidableEq, Repr

/-- `TRUNC_FORMAT(D, d)` (R144). -/
def truncFormat (D : List Byte) (d : Nat) : TruncResult where
  off := truncOffset D
  tv := truncValue D
  code := reduceCode (truncValue D) d
  chars := codeBuffer (reduceCode (truncValue D) d) d

/-- `HOTP(Kx, c, d)`: the code of a digest (45_host_procedures.md R206), the CODE_VAL of a successful GEN. -/
def codeOfDigest (D : List Byte) (d : Nat) : Nat := reduceCode (truncValue D) d

end Sys2Proof.Machine
end

