-- ==== Sys2Proof/Machine/HashCommands.lean ====
section
/-! DEFINITION. The commands that hash: HMAC (40_hmac_sha1.md R120) and GEN (42_generate_zeroize.md R175), with the
register writes they share with TRUNC. -/

namespace Sys2Proof.Machine

/-- `HMACD`, the digest of the secret and the counter the registers hold (R113). -/
def State.hmacDigest (s : State) : List Byte := hmacSha1 s.secret s.message

/-- `DIGEST[j] <- be32(D, 4j)` for j in 0..4 (R120, R175). -/
def storeDigest (D : List Byte) (s : State) : State :=
  { s with digest := #v[be32 D 0, be32 D 4, be32 D 8, be32 D 12, be32 D 16] }

/-- `WriteTruncResults` (41_truncation_format.md R144). -/
def writeTruncResults (r : TruncResult) (s : State) : State :=
  { s with
    truncOff := r.off
    trunc := r.tv.setWidth 31
    codeVal := BitVec.ofNat 32 r.code
    codeChr := #v[be32 r.chars 0, be32 r.chars 4, be32 r.chars 8] }

/-- `Complete_HMAC` (R120). -/
def completeHmac (s : State) : State :=
  if s.keyLegal then finish errNone (storeDigest s.hmacDigest s) else raiseError .secret s

/-- `Complete_GEN` (R175): KEY_LEN is checked before DIGITS (R233). -/
def completeGen (s : State) : State :=
  if s.keyLegal then
    if s.digitsLegal then
      finish errNone (writeTruncResults (truncFormat s.hmacDigest s.digitCount) (storeDigest s.hmacDigest s))
    else raiseError .digits s
  else raiseError .secret s

/-- HMAC, CMD 2 (R120). -/
def execHmac (ie : Bool) (s : State) : Host.Outcome State Fault Refusal := commandStep (.hmac ie) completeHmac s

/-- GEN, CMD 1 (R175). -/
def execGen (ie : Bool) (s : State) : Host.Outcome State Fault Refusal := commandStep (.gen ie) completeGen s

end Sys2Proof.Machine
end

