-- ==== Sys2Proof/Machine/ReservedCommands.lean ====
section
/-! DEFINITION. The reserved commands, CMD 0, 5, 6 and 7 (42_generate_zeroize.md R185): each starts like any command and
completes with ERR_CMD. -/

namespace Sys2Proof.Machine

/-- `Complete_RESERVED` (R185): no operand is examined (R233). -/
def completeReserved (s : State) : State := raiseError .cmd s

/-- CMD 0 (R185). -/
def execReserved0 (ie : Bool) (s : State) : Host.Outcome State Fault Refusal :=
  commandStep (.reserved0 ie) completeReserved s

/-- CMD 5 (R185). -/
def execReserved5 (ie : Bool) (s : State) : Host.Outcome State Fault Refusal :=
  commandStep (.reserved5 ie) completeReserved s

/-- CMD 6 (R185). -/
def execReserved6 (ie : Bool) (s : State) : Host.Outcome State Fault Refusal :=
  commandStep (.reserved6 ie) completeReserved s

/-- CMD 7 (R185). -/
def execReserved7 (ie : Bool) (s : State) : Host.Outcome State Fault Refusal :=
  commandStep (.reserved7 ie) completeReserved s

end Sys2Proof.Machine
end

