-- ==== Sys2Proof/Machine/TruncCommand.lean ====
section
/-! DEFINITION. TRUNC (41_truncation_format.md R150). -/

namespace Sys2Proof.Machine

/-- `Complete_TRUNC` (R150): the digest is the one DIGEST0 to DIGEST4 hold, and KEY_LEN is not looked at. -/
def completeTrunc (s : State) : State :=
  if s.digitsLegal then finish errNone (writeTruncResults (truncFormat s.digestBytes s.digitCount) s)
  else raiseError .digits s

/-- TRUNC, CMD 3 (R150). -/
def execTrunc (ie : Bool) (s : State) : Host.Outcome State Fault Refusal := commandStep (.trunc ie) completeTrunc s

end Sys2Proof.Machine
end

