-- ==== Sys2Proof/Machine/ZeroizeCommand.lean ====
section
/-! DEFINITION. ZEROIZE (42_generate_zeroize.md R180). -/

namespace Sys2Proof.Machine

/-- Clears key material and results; COUNTER, DIGITS, CTRL and WOVR keep their values (R180). -/
def clearSecrets (s : State) : State :=
  { s with
    key := Vector.replicate 16 0
    keyLen := 0
    digest := Vector.replicate 5 0
    trunc := 0
    truncOff := 0
    codeVal := 0
    codeChr := Vector.replicate 3 0 }

/-- `Complete_ZEROIZE` (R180). -/
def completeZeroize (s : State) : State := finish errNone (clearSecrets s)

/-- ZEROIZE, CMD 4 (R180). -/
def execZeroize (ie : Bool) (s : State) : Host.Outcome State Fault Refusal :=
  commandStep (.zeroize ie) completeZeroize s

end Sys2Proof.Machine
end

