-- ==== Sys2Proof/Machine/Dispatch.lean ====
section
/-! DEFINITION. One arm per command of 30_encoding.md R82: the command's atomic step that is due in the state. -/

namespace Sys2Proof.Machine

def exec (i : Instr) (s : State) : Host.Outcome State Fault Refusal :=
  match i with
  | .reserved0 ie => Sys2Proof.Machine.execReserved0 ie s
  | .gen ie => Sys2Proof.Machine.execGen ie s
  | .hmac ie => Sys2Proof.Machine.execHmac ie s
  | .trunc ie => Sys2Proof.Machine.execTrunc ie s
  | .zeroize ie => Sys2Proof.Machine.execZeroize ie s
  | .reserved5 ie => Sys2Proof.Machine.execReserved5 ie s
  | .reserved6 ie => Sys2Proof.Machine.execReserved6 ie s
  | .reserved7 ie => Sys2Proof.Machine.execReserved7 ie s

end Sys2Proof.Machine
end

