-- ==== Sys2Proof/Machine/Fetch.lean ====
section
/-! DEFINITION. What the next step is: the core fetches no instructions (10_state.md R21); in the place of a fetch, the next
input at the port selects the agent and the command whose atomic step is taken (20_memory.md R61, R72). -/

namespace Sys2Proof.Machine

/-- What the next step does. -/
inductive Fetched where
  /-- A command's atomic step, from the state given. -/
  | command (i : Instr) (s : State)
  /-- A step without a command, already taken. -/
  | taken (s : State)
  | fault (f : Fault)
  | refused (r : Refusal)
  deriving DecidableEq, Repr

/-- A bus transaction of the Host (R61): a write to CTRL with START = 1 is a command word (R80); every other transaction is
done at once. -/
def hostAccess (a : Access) (s : State) : Fetched :=
  match a with
  | .read w => .taken (performRead w s)
  | .write w v =>
    match regAt w, decode v with
    | .ctrl, .ok i => .command i s
    | _, _ => .taken (busWrite w v s)

/-- A platform access: one aligned word of the window is a bus transaction (R12), anything else stops (R60, R67). -/
def platformAccess (addr n : Nat) (access : BitVec 8 → Access) (s : State) : Fetched :=
  match route addr n with
  | .word w => hostAccess (access w) s
  | .outside => .fault (.outsideWindow addr)
  | .nonWord => .refused (.nonWordAccess addr n)

/-- A turn of the Core: the completion of the pending command, enabled exactly while BUSY (R72, R171). -/
def coreTurn (s : State) : Fetched :=
  match s.phase with
  | .busy => .command (instrOfCode s.pendingCmd s.ie) { s with turn := .core }
  | .idle => .taken s

/-- One input, taken. -/
def takeEvent (e : Event) (s : State) : Fetched :=
  match e with
  | .bus a => hostAccess a { s with turn := .host }
  | .memRead addr n => platformAccess addr n (fun w => .read w) { s with turn := .host }
  | .memWrite addr n v => platformAccess addr n (fun w => .write w v) { s with turn := .host }
  | .core => coreTurn s
  | .reset => .taken (resetBlock s)

/-- The next input at the port; when there is none the turn is the Core's, so a command that stays BUSY completes (weak
fairness, 70_reset_and_hazards.md R270; log entry 1). -/
def fetch (s : State) : Fetched :=
  match s.port with
  | [] => coreTurn s
  | e :: rest => takeEvent e { s with port := rest }

/-- The command word in front of the inputs, as a host write to CTRL (w = 2, R80). -/
def placeCommandWord (v : Word) (s : State) : State := { s with port := .bus (.write Reg.ctrl.index v) :: s.port }

end Sys2Proof.Machine
end

