-- ==== Sys2Proof/Machine/Step.lean ====
section
/-! DEFINITION. One step of the machine: one atomic step of one agent (00_scope.md R16, 20_memory.md R72). -/

namespace Sys2Proof.Machine

/-- One step: the next input selects what is done; a command's atomic step is `exec` of it. -/
def step (s : State) : Host.Outcome State Fault Refusal :=
  match fetch s with
  | .command i s' => exec i s'
  | .taken s' => .next s'
  | .fault f => .fault f
  | .refused r => .refused r

/-- The state with a command word as the next input: the host's write of it to CTRL (log entry 3). -/
def State.withFetchWord (s : State) (nbits w : Nat) : State :=
  placeCommandWord (BitVec.ofNat 32 (w % 2 ^ nbits)) s

end Sys2Proof.Machine
end

