-- ==== Sys2Proof/Machine/HostScript.lean ====
section
/-! DEFINITION. The host-script notation of 30_encoding.md R88 and the pseudo-instructions of R89, run against the machine's
own `step`. A script is the Host's: the block decodes none of it. A host that runs one has exclusive use of the port
(45_host_procedures.md R210), so only its transactions and the Core's turns are taken meanwhile. -/

namespace Sys2Proof.Machine

/-- A value expression of a script. DESIGN CHOICE (log entries 11, 18): R88 gives values no width and no operators; here they
are unsigned 64-bit, as the counter is, with `-`, `>>` and `&`, which R89 and the programs of 95_test_vectors.md use. -/
inductive HExpr where
  | lit (n : BitVec 64)
  | var (x : String)
  | sub (a b : HExpr)
  | shr (a : HExpr) (n : Nat)
  | and (a b : HExpr)
  deriving DecidableEq, Repr

/-- A condition of `IF` (R88). DESIGN CHOICE (log entry 18): R88 lists no operators for a condition; here they are equality,
AND and NOT. -/
inductive HCond where
  | eq (a b : HExpr)
  | and (a b : HCond)
  | not (a : HCond)
  deriving DecidableEq, Repr

/-- What `RETURN` gives (R88). -/
inductive HRet where
  | num (e : HExpr)
  | bool (b : Bool)
  deriving DecidableEq, Repr

/-- A host script (R88). -/
inductive Script where
  | skip
  | seq (a b : Script)
  /-- `WR <REG>, <value>`; of a value of 2^32 or more the low 32 bits are written, DESIGN CHOICE (log entry 18). -/
  | wr (w : BitVec 8) (e : HExpr)
  /-- `RD <REG> -> <name>`. -/
  | rd (w : BitVec 8) (x : String)
  /-- `x <- e`, the host's own arithmetic (CHECK of R89). -/
  | set (x : String) (e : HExpr)
  /-- `POLL <REG>, <mask>, <value>`. -/
  | poll (w : BitVec 8) (mask value : Word)
  /-- `WAITIRQ`. -/
  | waitIrq
  /-- `FOR x FROM a DOWNTO b ... END`; with a < b no pass is made, DESIGN CHOICE (log entry 18). -/
  | forDown (x : String) (a b : HExpr) (body : Script)
  /-- `IF <cond> THEN ... END`. -/
  | ifThen (c : HCond) (body : Script)
  /-- `RETURN <value>`. -/
  | ret (r : HRet)
  deriving DecidableEq, Repr

/-- Why a host script cannot go on. -/
inductive HostStop where
  /-- The machine faulted; a script on the port never meets this. -/
  | fault (f : Fault)
  /-- The machine refused; a script on the port never meets this. -/
  | refused (r : Refusal)
  /-- A name that nothing has set. -/
  | unbound (x : String)
  /-- A poll or a wait that no later step can satisfy. -/
  | stuck
  /-- A Unix time outside the host's data model (45_host_procedures.md R203). -/
  | timeRefused
  deriving DecidableEq, Repr

/-- A host script's run: the block, the script's variables (newest first), and, for each transaction to come, whether the
Core takes its turn before it. When that list ends the Core takes its turn before every transaction (log entry 11). -/
structure HostRun where
  block : State
  vars : List (String × BitVec 64)
  sched : List Bool
  deriving DecidableEq, Repr

/-- A returned value. -/
inductive HValue where
  | num (n : BitVec 64)
  | bool (b : Bool)
  deriving DecidableEq, Repr

/-- How a script ends. -/
inductive ScriptOut where
  /-- It ran to its end. -/
  | go (h : HostRun)
  | returned (v : HValue) (h : HostRun)
  | stopped (r : HostStop)
  deriving DecidableEq, Repr

/-! ### Transactions of a script -/

/-- One input given to the machine before any other, and the step that takes it. -/
def feed (e : Event) (s : State) : Except HostStop State :=
  match step { s with port := e :: s.port } with
  | .next s' => .ok s'
  | .fault f => .error (.fault f)
  | .refused r => .error (.refused r)

/-- One bus transaction, after a turn of the Core if `coreFirst` (R72: any number of transactions may come between a start
and its completion). -/
def transact (coreFirst : Bool) (a : Access) (s : State) : Except HostStop State :=
  if coreFirst then
    match feed .core s with
    | .ok s' => feed (.bus a) s'
    | .error r => .error r
  else feed (.bus a) s

/-- The next transaction of a run. -/
def HostRun.issue (a : Access) (h : HostRun) : Except HostStop HostRun :=
  match transact (h.sched.headD true) a h.block with
  | .ok s => .ok { h with block := s, sched := h.sched.tail }
  | .error r => .error r

/-- `POLL` (R88): read until `(read & mask) = value`. Once the schedule has ended the Core has had its turn, so a read that
still differs can never match. -/
def pollLoop (w : BitVec 8) (mask value : Word) : List Bool → State → Except HostStop (State × List Bool)
  | [], s =>
    match transact true (.read w) s with
    | .error r => .error r
    | .ok s' => if s'.rdata &&& mask = value then .ok (s', []) else .error .stuck
  | b :: rest, s =>
    match transact b (.read w) s with
    | .error r => .error r
    | .ok s' => if s'.rdata &&& mask = value then .ok (s', rest) else pollLoop w mask value rest s'

/-- `WAITIRQ` (R88): no transaction; the Core takes its turn, and the wait ends when irq = 1. -/
def awaitIrq (s : State) : Except HostStop State :=
  if s.irq then .ok s
  else
    match feed .core s with
    | .error r => .error r
    | .ok s' => if s'.irq then .ok s' else .error .stuck

/-! ### Running a script -/

/-- The value of a name. -/
def lookup (x : String) : List (String × BitVec 64) → Option (BitVec 64)
  | [] => none
  | (y, v) :: rest => if x = y then some v else lookup x rest

/-- A name set to a value. -/
def HostRun.bind (x : String) (v : BitVec 64) (h : HostRun) : HostRun := { h with vars := (x, v) :: h.vars }

/-- The value of an expression, modulo 2^64. -/
def HExpr.eval (vars : List (String × BitVec 64)) : HExpr → Except HostStop (BitVec 64)
  | .lit n => .ok n
  | .var x =>
    match lookup x vars with
    | some v => .ok v
    | none => .error (.unbound x)
  | .sub a b =>
    match a.eval vars, b.eval vars with
    | .ok u, .ok v => .ok (u - v)
    | .error r, _ => .error r
    | _, .error r => .error r
  | .shr a n =>
    match a.eval vars with
    | .ok u => .ok (u >>> n)
    | .error r => .error r
  | .and a b =>
    match a.eval vars, b.eval vars with
    | .ok u, .ok v => .ok (u &&& v)
    | .error r, _ => .error r
    | _, .error r => .error r

/-- The truth of a condition. -/
def HCond.eval (vars : List (String × BitVec 64)) : HCond → Except HostStop Bool
  | .eq a b =>
    match a.eval vars, b.eval vars with
    | .ok u, .ok v => .ok (u == v)
    | .error r, _ => .error r
    | _, .error r => .error r
  | .and a b =>
    match a.eval vars, b.eval vars with
    | .ok u, .ok v => .ok (u && v)
    | .error r, _ => .error r
    | _, .error r => .error r
  | .not a =>
    match a.eval vars with
    | .ok u => .ok (!u)
    | .error r => .error r

/-- `n` passes of a loop body, with x at v, v-1, ... (R88). -/
def iterDown (body : HostRun → ScriptOut) (x : String) : Nat → BitVec 64 → HostRun → ScriptOut
  | 0, _, h => .go h
  | n + 1, v, h =>
    match body (h.bind x v) with
    | .go h' => iterDown body x n (v - 1) h'
    | out => out

/-- A script, run (R88). DESIGN CHOICE (log entry 18): `WR` of a value of 2^32 or more writes its low 32 bits, and a `FOR`
whose first value is below its last makes no pass; R88 says nothing of either. -/
def Script.run : Script → HostRun → ScriptOut
  | .skip, h => .go h
  | .seq a b, h =>
    match a.run h with
    | .go h' => b.run h'
    | out => out
  | .wr w e, h =>
    match e.eval h.vars with
    | .error r => .stopped r
    | .ok v =>
      match h.issue (.write w (v.setWidth 32)) with
      | .ok h' => .go h'
      | .error r => .stopped r
  | .rd w x, h =>
    match h.issue (.read w) with
    | .ok h' => .go (h'.bind x (h'.block.rdata.setWidth 64))
    | .error r => .stopped r
  | .set x e, h =>
    match e.eval h.vars with
    | .error r => .stopped r
    | .ok v => .go (h.bind x v)
  | .poll w mask value, h =>
    match pollLoop w mask value h.sched h.block with
    | .ok (s, rest) => .go { h with block := s, sched := rest }
    | .error r => .stopped r
  | .waitIrq, h =>
    match awaitIrq h.block with
    | .ok s => .go { h with block := s }
    | .error r => .stopped r
  | .forDown x a b body, h =>
    match a.eval h.vars, b.eval h.vars with
    | .ok u, .ok v => iterDown body.run x (u.toNat + 1 - v.toNat) u h
    | .error r, _ => .stopped r
    | _, .error r => .stopped r
  | .ifThen c body, h =>
    match c.eval h.vars with
    | .error r => .stopped r
    | .ok true => body.run h
    | .ok false => .go h
  | .ret (.num e), h =>
    match e.eval h.vars with
    | .error r => .stopped r
    | .ok v => .returned (.num v) h
  | .ret (.bool b), h => .returned (.bool b) h

/-! ### Pseudo-instructions (R89) -/

/-- Scripts one after another. -/
def Script.all : List Script → Script
  | [] => .skip
  | a :: rest => .seq a (Script.all rest)

/-- `WR` of a fixed value. -/
def wrLit (r : Reg) (v : Word) : Script := .wr r.index (.lit (v.setWidth 64))

/-- `GEN`, `GEN.IE` and the other commands: one write of the command word to CTRL. -/
def commandScript (i : Instr) : Script := wrLit .ctrl (encode i)

/-- `WAITDONE`: BUSY = 0 and DONE = 1. -/
def waitDone : Script := .poll Reg.status.index 0x3 0x2

/-- `ACK`: clear DONE and WOVR. -/
def ackScript : Script := wrLit .status 0x6

/-- The number of KEY words that hold L bytes, `ceil(L/4)`. -/
def keyWords (L : Nat) : Nat := (L + 3) / 4

/-- `LOADKEY <bytes>, <L>`: the key words, packed big-endian, unused low bytes of the last word 0, then KEY_LEN. DESIGN CHOICE
(log entry 18): L is always the number of the bytes, as R206 calls it, since R89 does not say what another L does;
above 64 bytes there is no KEY word for the rest and R89 gives no expansion, and here the writes go on at word 32 and up,
modulo 256, and no valid driver makes them (R204). -/
def loadKey (K : List Byte) : Script :=
  Script.all (((List.range (keyWords K.length)).map fun j =>
      Script.wr (BitVec.ofNat 8 (16 + j)) (.lit ((be32 K (4 * j)).setWidth 64))) ++
    [wrLit .keyLen (BitVec.ofNat 32 K.length)])

/-- `SETCTR <c>`. -/
def setCtr (c : HExpr) : Script :=
  .seq (.wr Reg.counterHi.index (.shr c 32)) (.wr Reg.counterLo.index (.and c (.lit 0xFFFFFFFF)))

/-- `SETDIG <d>`. -/
def setDig (d : Nat) : Script := wrLit .digits (BitVec.ofNat 32 d)

/-- `READCODE`. -/
def readCode : Script :=
  Script.all [.rd (Reg.codeChr 0).index "c0", .rd (Reg.codeChr 1).index "c1", .rd (Reg.codeChr 2).index "c2",
    .rd Reg.codeVal.index "val"]

/-- `CHECK -> e`: `e <- s[7:4]`. -/
def checkErr (e : String) : Script :=
  .seq (.rd Reg.status.index "s") (.set e (.and (.shr (.var "s") 4) (.lit 0xF)))

end Sys2Proof.Machine
end

