-- ==== Sys2Proof/Machine/HostProcedures.lean ====
section
/-! DEFINITION. The host procedures of 45_host_procedures.md: the Clock (R200 to R203), the driver (R204 to R206), now() and
verify() (R207 to R212). They run on the host, over the bus interface only. -/

namespace Sys2Proof.Machine

/-- The source's error taxonomy, as a host procedure raises it (R201, R204, R205). -/
inductive HostError where
  | invalidConfiguration
  | invalidSecret
  /-- ERR_CMD: never produced by a correct driver (R205). -/
  | driverDefect
  deriving DecidableEq, Repr

/-- The Clock is an injectable capability (R202). -/
inductive Clock where
  /-- The system clock with a step duration in seconds (R200). -/
  | system (step : Nat)
  /-- A test double that returns a counter of its own (R202). -/
  | double (counter : BitVec 64)
  deriving DecidableEq, Repr

/-- A Clock is constructed from a step duration, 30 seconds where none is given, and keeps it; a step that is not positive
fails (R201). -/
def Clock.construct (step : Int := Config.stepDefault) : Except HostError Clock :=
  if step ≤ 0 then .error .invalidConfiguration else .ok (.system step.toNat)

/-- `currentInterval()` at Unix time t (R200). The system clock refuses a time before the epoch (R203) and, DESIGN CHOICE (log
entry 12), one whose interval is no u64. DESIGN CHOICE (log entry 12): a test double reads no time, so it answers its counter
whatever t is, below 0 too; R203 does not say whether that is refused. -/
def Clock.currentInterval (k : Clock) (t : Int) : Except HostStop (BitVec 64) :=
  match k with
  | .double c => .ok c
  | .system step =>
    if t < 0 ∨ 2 ^ 64 ≤ t.toNat / step then .error .timeRefused else .ok (BitVec.ofNat 64 (t.toNat / step))

/-- Where a driver's `generate` does its ACK: R206 and R275 differ, and the model has both (log entry 20). -/
inductive AckOrder where
  /-- Between CHECK and the result reads, as the pseudocode of R206 has it. -/
  | beforeResults
  /-- After the result reads, as 70_reset_and_hazards.md R275 has it. -/
  | afterResults
  deriving DecidableEq, Repr

/-- The host driver's immutable configuration (R204), with the Verifier's window (R208) and the place of the ACK (log entry
20). -/
structure Driver where
  secret : List Byte
  digits : Nat
  clock : Clock
  ackOrder : AckOrder
  lookback : Nat := Config.lookbackDefault
  lookahead : Nat := Config.lookaheadDefault
  deriving DecidableEq, Repr

/-- The construction checks of R204 on the decoded secret (`none`: not decodable) and the digit count. A longer secret than
the block takes is either refused or loaded as its SHA-1 (R117): `prehash` says which. DESIGN CHOICE (log entry 12): R204
gives the checks no order; here they are, in order, an undecodable or empty secret, the digit count, the secret's length. -/
def Driver.construct (decoded : Option (List Byte)) (digitCount : Int) (clock : Clock) (prehash : Bool)
    (ackOrder : AckOrder) : Except HostError Driver :=
  match decoded with
  | none => .error .invalidSecret
  | some [] => .error .invalidSecret
  | some (b :: K) =>
    if digitCount < 1 ∨ (Config.digitsMax : Int) < digitCount then .error .invalidConfiguration
    else if (b :: K).length ≤ Config.keyMax then
      .ok { secret := b :: K, digits := digitCount.toNat, clock := clock, ackOrder := ackOrder }
    else if prehash then
      .ok { secret := sha1 (b :: K), digits := digitCount.toNat, clock := clock, ackOrder := ackOrder }
    else .error .invalidSecret

/-- What a constructed driver holds (R204): a secret and a digit count the block takes. -/
def Driver.Valid (d : Driver) : Prop :=
  1 ≤ d.secret.length ∧ d.secret.length ≤ Config.keyMax ∧ 1 ≤ d.digits ∧ d.digits ≤ Config.digitsMax

/-- The host error of an ERR_CODE (R205); codes above 3 are never produced (R230). -/
def mapError (code : BitVec 64) : HostError :=
  if code = 2 then .invalidSecret else if code = 3 then .invalidConfiguration else .driverDefect

/-- How a host procedure ends. -/
inductive ProcResult (α : Type) where
  | ok (a : α) (h : HostRun)
  | error (e : HostError) (h : HostRun)
  | stopped (r : HostStop)
  deriving DecidableEq, Repr

/-- The end of `generate`, after CHECK: the ACK, and the results if no error. With an error there are no result reads, and
the ACK comes before the error is raised in both orders (R206, R275). -/
def resultScripts : AckOrder → List Script
  | .beforeResults => [ackScript, .ifThen (.not (.eq (.var "e") (.lit 0))) (.ret (.num (.var "e"))), readCode]
  | .afterResults =>
    [.ifThen (.not (.eq (.var "e") (.lit 0))) (.seq ackScript (.ret (.num (.var "e")))), readCode, ackScript]

/-- The script of `generate(c)` (R206, R275): operand writes, one start, WAITDONE, CHECK, then the ACK and the results in the
driver's order. DESIGN CHOICE (log entry 19): the key is loaded in every call, as the pseudocode stands; its comment lets a
driver load it once, at construction. -/
def generateScript (d : Driver) (c : BitVec 64) : Script :=
  Script.all ([loadKey d.secret, setCtr (.lit c), setDig d.digits, commandScript (.gen false), waitDone, checkErr "e"] ++
    resultScripts d.ackOrder)

/-- The Code string of the words READCODE read: the first d bytes of `be4(c0) || be4(c1) || be4(c2)` (R206). -/
def codeString (d : Nat) (c0 c1 c2 : BitVec 64) : List Byte :=
  (be4 (c0.setWidth 32) ++ be4 (c1.setWidth 32) ++ be4 (c2.setWidth 32)).take d

/-- `generate(c)` (R206). -/
def generate (d : Driver) (c : BitVec 64) (h : HostRun) : ProcResult (List Byte) :=
  match (generateScript d c).run h with
  | .stopped r => .stopped r
  | .returned (.num e) h' => .error (mapError e) h'
  | .returned (.bool _) h' => .error .driverDefect h'
  | .go h' =>
    match lookup "c0" h'.vars, lookup "c1" h'.vars, lookup "c2" h'.vars with
    | some c0, some c1, some c2 => .ok (codeString d.digits c0 c1 c2) h'
    | _, _, _ => .stopped (.unbound "c0")

/-- `HOTP(Kx, c, d)` as a Code string, `dec(HOTP(Kx, c, d), d)` (R206). -/
def hotpCode (K : List Byte) (c : BitVec 64) (d : Nat) : List Byte :=
  dec (codeOfDigest (hmacSha1 K (beBytes8 c)) d) d

/-- `now() = generate(currentInterval())` at time t (R207). -/
def now (d : Driver) (t : Int) (h : HostRun) : ProcResult (List Byte) :=
  match d.clock.currentInterval t with
  | .ok c => generate d c h
  | .error r => .stopped r

/-- The counters `(c + k) mod 2^64` for k from -LOOKBACK to LOOKAHEAD (R208, R212). -/
def window (lookback lookahead : Nat) (c : BitVec 64) : List (BitVec 64) :=
  (List.range (lookback + lookahead + 1)).map fun i => c - BitVec.ofNat 64 lookback + BitVec.ofNat 64 i

/-- The loop of `verify` over the counters still to check (R209). -/
def verifyLoop (d : Driver) (candidate : List Byte) : List (BitVec 64) → HostRun → ProcResult Bool
  | [], h => .ok false h
  | g :: rest, h =>
    match generate d g h with
    | .ok code h' => if code = candidate then .ok true h' else verifyLoop d candidate rest h'
    | .error e h' => .error e h'
    | .stopped r => .stopped r

/-- `verify(candidate)` at time t (R209): the Clock is read once. -/
def verify (d : Driver) (t : Int) (candidate : List Byte) (h : HostRun) : ProcResult Bool :=
  match d.clock.currentInterval t with
  | .ok c => verifyLoop d candidate (window d.lookback d.lookahead c) h
  | .error r => .stopped r

end Sys2Proof.Machine
end

