-- ==== Sys2Proof/Safety.lean ====
section
/-! DEFINITION. What counts as a safe run: the step answers a next state, and the state keeps the invariant of the
registers. -/

namespace Sys2Proof.Machine

/-- The step answers a next state: no fault and no refusal. -/
def Runs (s : State) : Prop := ∃ t, step s = .next t

/-- An input that is a platform access, the only kind on which the machine can stop (60_exceptions.md R236). -/
def Event.isPlatform : Event → Bool
  | .memRead _ _ => true
  | .memWrite _ _ _ => true
  | .bus _ | .core | .reset => false

/-- The result registers agree: for some digit count d, CODE_VAL is `TRUNC mod 10^d` and CODECHARS holds its d digits and
then 0x00 (41_truncation_format.md R142, R143). After reset and ZEROIZE d is 0. -/
def ResultsAgree (s : State) : Prop :=
  ∃ d, d ≤ Config.digitsMax ∧ s.codeVal.toNat = s.trunc.toNat % 10 ^ d ∧ s.codeChars = codeBuffer s.codeVal.toNat d

/-- The invariant of the registers. -/
structure Inv (s : State) : Prop where
  /-- ERR_CODE values 4 to 15 are never produced (R230, U10). -/
  errCode_le : s.errCode.toNat ≤ 3
  /-- DONE = 1 and BUSY = 1 never hold together (R30). -/
  busy_not_done : s.phase = .busy → s.done = false
  /-- Between a start and its completion ERR_CODE reads 0 (R32). -/
  busy_no_error : s.phase = .busy → s.errCode = 0
  /-- While BUSY, CTRL.CMD equals PENDING_CMD (R27). -/
  busy_cmd : s.phase = .busy → s.cmd = s.pendingCmd
  /-- The result registers agree with one another (R145). -/
  results : ResultsAgree s

/-- The Core's turn, while a command is in progress: a completion step is due (42_generate_zeroize.md R171). -/
def CompletionDue (s : State) : Prop := s.turn = .core ∧ s.phase = .busy

/-- The Host's turn, while no command is in progress: a command word starts its command (R170). -/
def StartDue (s : State) : Prop := s.turn = .host ∧ s.phase = .idle

/-- KEY_LEN is legal (10_state.md R33). -/
def KeyLenLegal (s : State) : Prop := 1 ≤ s.keyLen.toNat ∧ s.keyLen.toNat ≤ 64

/-- DIGITS is legal (R36). -/
def DigitsLegal (s : State) : Prop := 1 ≤ s.digits.toNat ∧ s.digits.toNat ≤ 10

/-- The value a string of ASCII digits spells (R145: parsing the code as a decimal number). -/
def decimalValue (chars : List Byte) : Nat := chars.foldl (fun acc b => 10 * acc + (b.toNat - 0x30)) 0

/-- The big-endian value of the four bytes from `off` on (00_scope.md R10). -/
def be32Value (D : List Byte) (off : Nat) : Nat :=
  (D.getD off 0).toNat * 2 ^ 24 + (D.getD (off + 1) 0).toNat * 2 ^ 16 + (D.getD (off + 2) 0).toNat * 2 ^ 8 +
    (D.getD (off + 3) 0).toNat

/-- The truncation offset of a digest as a number (41_truncation_format.md R140). -/
def offsetOf (D : List Byte) : Nat := (D.getD 19 0).toNat % 16

/-- The truncated value of a digest as a number (R141): the top bit is cleared. -/
def truncatedOf (D : List Byte) : Nat := be32Value D (offsetOf D) % 2 ^ 31

/-- The host write the next input performs on the port, if it is one (20_memory.md R61, R12). -/
def State.nextWrite (s : State) : Option (BitVec 8 × Word) :=
  match s.port with
  | .bus (.write w v) :: _ => some (w, v)
  | .memWrite addr n v :: _ =>
    match route addr n with
    | .word w => some (w, v)
    | .outside | .nonWord => none
  | _ => none

/-- The next input is a reset. -/
def State.nextIsReset (s : State) : Bool :=
  match s.port with
  | .reset :: _ => true
  | _ => false

/-- The next step is the Core's: a turn offered to it, or no input left. -/
def State.nextIsCore (s : State) : Bool :=
  match s.port with
  | [] => true
  | .core :: _ => true
  | _ => false

/-- A run is over: the host's last transaction is done and no completion is owed (45_host_procedures.md R215). -/
def RunOver (s : State) : Prop := s.port = [] ∧ s.phase = .idle

/-- Two states that differ in nothing but the key buffer. -/
def SameButKey (s t : State) : Prop := { s with key := t.key } = t

end Sys2Proof.Machine
end

