-- ==== Sys2Proof/Certificates/Slice0/Obligations.lean ====
section
/-! DEFINITION. The statements about the machine, each from the numbered rules of spec/. A frame is written as one equation:
the state after, with the fields the rule writes put back, is the state before, so that every other field, the model's own
included, is unchanged. -/

open Sys2Proof Sys2Proof.Machine

/-! ### Reset -/

/-- 70_reset_and_hazards.md R260: the values every register takes, from every state (so from the power-on state of R262
too). -/
def Obligations.ResetSetsEveryRegister : Prop :=
  ∀ (s : State) (rest : List Event), s.port = .reset :: rest →
    ∃ t, step s = .next t ∧
      t.ie = false ∧ t.cmd = 0 ∧ t.phase = .idle ∧ t.pendingCmd = 0 ∧ t.done = false ∧ t.wovr = false ∧ t.errCode = 0 ∧
      t.keyLen = 0 ∧ t.digits = 6 ∧ t.counterHi = 0 ∧ t.counterLo = 0 ∧
      (∀ j : Fin 16, t.key[j] = 0) ∧ (∀ j : Fin 5, t.digest[j] = 0) ∧
      t.trunc = 0 ∧ t.truncOff = 0 ∧ t.codeVal = 0 ∧ (∀ j : Fin 3, t.codeChr[j] = 0) ∧
      busRead 0 t = 0x4F545031 ∧ busRead 1 t = 0x00000A40 ∧ busRead 2 t = 0 ∧ busRead 3 t = 0 ∧ t.irq = false

/-- A reset leaves the reset state, but for the model's own fields: the inputs still to come, the read output and the draw
count are no state of the block and stay. That they stay is the model's choice (log entry 9). -/
def Obligations.ResetKeepsTheInputs : Prop :=
  ∀ (s : State) (rest : List Event), s.port = .reset :: rest →
    step s = .next { State.reset with port := rest, rdata := s.rdata, draws := s.draws }

/-- R261: a reset while BUSY abandons the command. The turns offered to the Core afterwards complete nothing: DONE stays 0,
no result is written, and the key is erased. -/
def Obligations.ResetAbandonsTheCommand : Prop :=
  ∀ (s : State) (n : Nat), s.phase = .busy → s.port = .reset :: List.replicate n .core →
    ∃ t, core.run (n + 1) s = .next t ∧ t.phase = .idle ∧ t.done = false ∧ t.errCode = 0 ∧
      (∀ j : Fin 16, t.key[j] = 0) ∧ t.keyLen = 0 ∧ (∀ j : Fin 5, t.digest[j] = 0) ∧ t.trunc = 0 ∧ t.truncOff = 0 ∧
      t.codeVal = 0 ∧ (∀ j : Fin 3, t.codeChr[j] = 0)

/-! ### Encoding -/

/-- 30_encoding.md R83: the canonical words, without and with IE, and words with reserved bits set. -/
def Obligations.CommandWordsDecode : Prop :=
  decode 0x00000011 = .ok (.gen false) ∧ decode 0x00000111 = .ok (.gen true) ∧
  decode 0x00000021 = .ok (.hmac false) ∧ decode 0x00000121 = .ok (.hmac true) ∧
  decode 0x00000031 = .ok (.trunc false) ∧ decode 0x00000131 = .ok (.trunc true) ∧
  decode 0x00000041 = .ok (.zeroize false) ∧ decode 0x00000141 = .ok (.zeroize true) ∧
  decode 0x00000001 = .ok (.reserved0 false) ∧ decode 0x00000051 = .ok (.reserved5 false) ∧
  decode 0x00000061 = .ok (.reserved6 false) ∧ decode 0x00000071 = .ok (.reserved7 false) ∧
  decode 0xFFFFFE9F = .ok (.gen false) ∧ decode 0x00000110 = .error .configurationWrite

/-- Decode and encode agree: every well-formed command is read back from its canonical word, and that word sets no reserved
bit (R81, R83). -/
def Obligations.DecodeOfEncodeIsTheCommand : Prop :=
  ∀ i : Instr, i.WellFormed = true → decode (encode i) = .ok i ∧ WellFormed.word (encode i) = true

/-- R81, R83: a word decodes to a command exactly when its START, CMD and IE bits are that command's canonical ones; the bits
3:1, 7 and 31:9 are ignored, and no two commands share a word. -/
def Obligations.DecodeReadsOnlyStartCmdIe : Prop :=
  ∀ (v : Word) (i : Instr), decode v = .ok i ↔ v &&& 0x171 = encode i

/-- R83: decoding is total; match and mask of a command code; the canonical words, and IE adds 0x100. -/
def Obligations.EveryCtrlValueDecodes : Prop :=
  (∀ v : Word,
    (v.getLsbD 0 = false → decodeCtrl v = .configuration (v.getLsbD 8) (v.extractLsb' 4 3)) ∧
    (v.getLsbD 0 = true → ∃ i, decodeCtrl v = .command i ∧ i.code = v.extractLsb' 4 3 ∧ i.ie = v.getLsbD 8)) ∧
  (∀ (v : Word) (c : BitVec 3),
    v &&& 0x71 = (c.setWidth 32 <<< 4) ||| 1 ↔ v.getLsbD 0 = true ∧ v.extractLsb' 4 3 = c) ∧
  (∀ ie : Bool, let add : Word := if ie then 0x100 else 0
    encode (.gen ie) = 0x11 + add ∧ encode (.hmac ie) = 0x21 + add ∧ encode (.trunc ie) = 0x31 + add ∧
    encode (.zeroize ie) = 0x41 + add ∧ encode (.reserved0 ie) = 0x01 + add ∧ encode (.reserved5 ie) = 0x51 + add ∧
    encode (.reserved6 ie) = 0x61 + add ∧ encode (.reserved7 ie) = 0x71 + add)

/-! ### What a step runs -/

/-- A write of a command word to CTRL runs that command, on the Host's turn (R80, 20_memory.md R61). -/
def Obligations.StepRunsTheWrittenCommand : Prop :=
  ∀ (s : State) (v : Word) (i : Instr) (rest : List Event), s.port = .bus (.write 2 v) :: rest → decode v = .ok i →
    step s = exec i { s with port := rest, turn := .host }

/-- A turn of the Core runs the pending command while BUSY, and is no step of the block while IDLE (R171: enabled if and only
if PHASE = BUSY; R72). -/
def Obligations.StepRunsThePendingCommand : Prop :=
  ∀ (s : State) (rest : List Event), s.port = .core :: rest →
    (s.phase = .busy →
      ∃ i : Instr, i.code = s.pendingCmd ∧ step s = exec i { s with port := rest, turn := .core }) ∧
    (s.phase = .idle → step s = .next { s with port := rest })

/-- The command word that `withFetchWord` places is what the very next step runs. -/
def Obligations.StepRunsThePlacedWord : Prop :=
  ∀ (s : State) (w : Nat) (i : Instr), decodeTableWord 32 w = some i →
    step (s.withFetchWord 32 w) = exec i { s with turn := .host }

/-- R61: a write transaction changes the state as BusWrite gives, whatever the word and the value. -/
def Obligations.WriteStepIsBusWrite : Prop :=
  ∀ (s : State) (w : BitVec 8) (v : Word) (rest : List Event), s.port = .bus (.write w v) :: rest →
    step s = .next (busWrite w v { s with port := rest, turn := .host })

/-- R61, R62: a read transaction returns BusRead of the state before the step, and changes no state of the block. -/
def Obligations.ReadStepReturnsBusRead : Prop :=
  ∀ (s : State) (w : BitVec 8) (rest : List Event), s.port = .bus (.read w) :: rest →
    ∃ t, step s = .next t ∧ t.rdata = busRead w s ∧ t.port = rest ∧
      { t with rdata := s.rdata, draws := s.draws, port := s.port, turn := s.turn } = s

/-- 60_exceptions.md R236: the machine stops on no transaction of the port, no turn of the Core and no reset; only a
platform access can stop it. -/
def Obligations.OnlyPlatformAccessStops : Prop :=
  ∀ s : State, (∀ e rest, s.port = e :: rest → e.isPlatform = false) → Runs s

/-- 20_memory.md R60, R67: an aligned 32-bit platform access in the window is the port transaction of its word; any other
access in the window is refused; outside the window there is no such address (the fault's name, and that an access of
0 bytes at BASE counts as outside, are the model's choice, log entry 6). -/
def Obligations.PlatformAccessIsOneWord : Prop :=
  (∀ (s : State) (w : BitVec 8) (rest : List Event), s.port = .memRead (Config.base + 4 * w.toNat) 4 :: rest →
    step s = step { s with port := .bus (.read w) :: rest }) ∧
  (∀ (s : State) (w : BitVec 8) (v : Word) (rest : List Event),
    s.port = .memWrite (Config.base + 4 * w.toNat) 4 v :: rest →
    step s = step { s with port := .bus (.write w v) :: rest }) ∧
  (∀ (s : State) (off n : Nat) (v : Word) (rest : List Event), off < 0x400 → 1 ≤ n → n ≠ 4 ∨ off % 4 ≠ 0 →
    s.port = .memRead (Config.base + off) n :: rest ∨ s.port = .memWrite (Config.base + off) n v :: rest →
    step s = .refused (.nonWordAccess (Config.base + off) n)) ∧
  (∀ (s : State) (addr n : Nat) (v : Word) (rest : List Event),
    addr + n ≤ Config.base ∨ Config.base + 0x400 ≤ addr →
    s.port = .memRead addr n :: rest ∨ s.port = .memWrite addr n v :: rest →
    step s = .fault (.outsideWindow addr))

/-! ### Reading and writing registers -/

/-- 20_memory.md R62: the value of a read, word by word, and that a read changes no state of the block (the read output and
the draw count are the model's own). The unspecified value of a result register read while BUSY is `Config.draw`, of which
nothing is known. -/
def Obligations.BusReadGivesEachWord : Prop :=
  ∀ (s : State) (w : BitVec 8),
    { performRead w s with rdata := s.rdata, draws := s.draws } = s ∧ (performRead w s).rdata = busRead w s ∧
    busRead w s =
    (if w = 0 then 0x4F545031
    else if w = 1 then 0x00000A40
    else if w = 2 then (if s.ie then 0x100 else 0) + 16 * s.cmd.setWidth 32
    else if w = 3 then
      16 * s.errCode.setWidth 32 + (if s.wovr then 4 else 0) + (if s.done then 2 else 0) +
        (if s.phase = .busy then 1 else 0)
    else if w = 4 then s.keyLen.setWidth 32
    else if w = 5 then s.digits.setWidth 32
    else if w = 6 then s.counterHi
    else if w = 7 then s.counterLo
    else if w = 8 then (if s.phase = .busy then Config.draw s.draws else s.trunc.setWidth 32)
    else if w = 9 then (if s.phase = .busy then Config.draw s.draws else s.truncOff.setWidth 32)
    else if w = 10 then (if s.phase = .busy then Config.draw s.draws else s.codeVal)
    else if w = 12 then (if s.phase = .busy then Config.draw s.draws else s.codeChr[0])
    else if w = 13 then (if s.phase = .busy then Config.draw s.draws else s.codeChr[1])
    else if w = 14 then (if s.phase = .busy then Config.draw s.draws else s.codeChr[2])
    else if h : 32 ≤ w.toNat ∧ w.toNat < 37 then
      (if s.phase = .busy then Config.draw s.draws else s.digest[w.toNat - 32]'(by omega))
    else 0)

/-- R63: BusWrite while IDLE, word by word. A CTRL write with START = 1 starts the command after IE and CMD are stored
(R170). -/
def Obligations.BusWriteWhileIdle : Prop :=
  ∀ (s : State) (w : BitVec 8) (v : Word), s.phase = .idle → busWrite w v s =
    (if w = 2 then
      (if v.getLsbD 0 then
        { s with ie := v.getLsbD 8, cmd := v.extractLsb' 4 3, phase := .busy, pendingCmd := v.extractLsb' 4 3,
                 done := false, errCode := 0 }
      else { s with ie := v.getLsbD 8, cmd := v.extractLsb' 4 3 })
    else if w = 3 then { s with done := s.done && !v.getLsbD 1, wovr := s.wovr && !v.getLsbD 2 }
    else if w = 4 then { s with keyLen := v.extractLsb' 0 8 }
    else if w = 5 then { s with digits := v.extractLsb' 0 8 }
    else if w = 6 then { s with counterHi := v }
    else if w = 7 then { s with counterLo := v }
    else if h : 16 ≤ w.toNat ∧ w.toNat < 32 then { s with key := s.key.set (w.toNat - 16) v }
    else if h : 32 ≤ w.toNat ∧ w.toNat < 37 then { s with digest := s.digest.set (w.toNat - 32) v }
    else s)

/-- R64: BusWrite while BUSY, word by word: operand writes and a START are dropped with WOVR, IE may still change. -/
def Obligations.BusWriteWhileBusy : Prop :=
  ∀ (s : State) (w : BitVec 8) (v : Word), s.phase = .busy → busWrite w v s =
    (if w = 2 then { s with ie := v.getLsbD 8, wovr := s.wovr || v.getLsbD 0 }
    else if w = 3 then { s with done := s.done && !v.getLsbD 1, wovr := s.wovr && !v.getLsbD 2 }
    else if 4 ≤ w.toNat ∧ w.toNat ≤ 7 ∨ 16 ≤ w.toNat ∧ w.toNat ≤ 36 then { s with wovr := true }
    else s)

/-- R65: StatusWrite, whatever PHASE is: writing 1 clears DONE and WOVR, and nothing else. -/
def Obligations.StatusWriteClearsDoneAndWovr : Prop :=
  ∀ (s : State) (v : Word), busWrite 3 v s =
    { s with done := if v.getLsbD 1 then false else s.done, wovr := if v.getLsbD 2 then false else s.wovr }

/-- 42_generate_zeroize.md R173, R172: between a start and its completion no transaction of the Host changes an operand, a
result register, CMD or the command in progress. -/
def Obligations.BusyHoldsOperands : Prop :=
  ∀ (s : State) (a : Access) (rest : List Event), s.phase = .busy → s.port = .bus a :: rest →
    ∃ t, step s = .next t ∧ t.phase = .busy ∧ t.port = rest ∧
      { t with ie := s.ie, done := s.done, wovr := s.wovr, rdata := s.rdata, draws := s.draws, port := s.port,
               turn := s.turn } = s

/-! ### Starting a command -/

/-- R170: every command word, reserved codes included, starts its command while IDLE; the start checks nothing and writes
nothing else. While BUSY it is no start: it is dropped with WOVR and only IE is stored (20_memory.md R64). -/
def Obligations.StartMakesTheCoreBusy : Prop :=
  ∀ (i : Instr) (s : State),
    (StartDue s →
      ∃ t, exec i s = .next t ∧ t.phase = .busy ∧ t.pendingCmd = i.code ∧ t.cmd = i.code ∧ t.ie = i.ie ∧
        t.done = false ∧ t.errCode = 0 ∧ t.irq = false ∧
        { t with phase := s.phase, pendingCmd := s.pendingCmd, cmd := s.cmd, ie := s.ie, done := s.done,
                 errCode := s.errCode } = s) ∧
    (s.turn = .host → s.phase = .busy → exec i s = .next { s with ie := i.ie, wovr := true })

/-! ### Completing a command -/

/-- 40_hmac_sha1.md R120, R113: with a legal KEY_LEN, HMAC writes the digest of the secret and the counter, and no other
result register. -/
def Obligations.HmacWritesTheDigest : Prop :=
  ∀ (ie : Bool) (s : State), CompletionDue s → KeyLenLegal s →
    ∃ t, exec (.hmac ie) s = .next t ∧
      t.digestBytes = hmacSha1 (s.keyBytes.take s.keyLen.toNat) (beBytes8 (s.counterHi ++ s.counterLo)) ∧
      t.phase = .idle ∧ t.done = true ∧ t.errCode = 0 ∧
      { t with digest := s.digest, phase := s.phase, done := s.done, errCode := s.errCode } = s

/-- 42_generate_zeroize.md R175: with a legal KEY_LEN and a legal DIGITS, GEN writes the digest, its truncation, the code and
its characters. -/
def Obligations.GenWritesDigestAndCode : Prop :=
  ∀ (ie : Bool) (s : State), CompletionDue s → KeyLenLegal s → DigitsLegal s →
    ∃ t D, exec (.gen ie) s = .next t ∧
      D = hmacSha1 (s.keyBytes.take s.keyLen.toNat) (beBytes8 (s.counterHi ++ s.counterLo)) ∧
      t.digestBytes = D ∧ t.truncOff.toNat = offsetOf D ∧ t.trunc.toNat = truncatedOf D ∧
      t.codeVal.toNat = truncatedOf D % 10 ^ s.digits.toNat ∧
      t.codeChars = dec (truncatedOf D % 10 ^ s.digits.toNat) s.digits.toNat ++ List.replicate (12 - s.digits.toNat) 0 ∧
      t.phase = .idle ∧ t.done = true ∧ t.errCode = 0 ∧
      { t with digest := s.digest, truncOff := s.truncOff, trunc := s.trunc, codeVal := s.codeVal, codeChr := s.codeChr,
               phase := s.phase, done := s.done, errCode := s.errCode } = s

/-- 41_truncation_format.md R150: with a legal DIGITS, TRUNC does the same from the digest the registers hold, whatever
KEY_LEN is, and keeps the digest. -/
def Obligations.TruncWritesTheCode : Prop :=
  ∀ (ie : Bool) (s : State), CompletionDue s → DigitsLegal s →
    ∃ t, exec (.trunc ie) s = .next t ∧
      t.truncOff.toNat = offsetOf s.digestBytes ∧ t.trunc.toNat = truncatedOf s.digestBytes ∧
      t.codeVal.toNat = truncatedOf s.digestBytes % 10 ^ s.digits.toNat ∧
      t.codeChars = dec (truncatedOf s.digestBytes % 10 ^ s.digits.toNat) s.digits.toNat ++
        List.replicate (12 - s.digits.toNat) 0 ∧
      t.phase = .idle ∧ t.done = true ∧ t.errCode = 0 ∧
      { t with truncOff := s.truncOff, trunc := s.trunc, codeVal := s.codeVal, codeChr := s.codeChr,
               phase := s.phase, done := s.done, errCode := s.errCode } = s

/-- 42_generate_zeroize.md R180: ZEROIZE always succeeds; it clears key material and results and keeps COUNTER, DIGITS, CTRL
and WOVR. -/
def Obligations.ZeroizeClearsKeyAndResults : Prop :=
  ∀ (ie : Bool) (s : State), CompletionDue s →
    ∃ t, exec (.zeroize ie) s = .next t ∧
      (∀ j : Fin 16, t.key[j] = 0) ∧ t.keyLen = 0 ∧ (∀ j : Fin 5, t.digest[j] = 0) ∧ t.trunc = 0 ∧ t.truncOff = 0 ∧
      t.codeVal = 0 ∧ (∀ j : Fin 3, t.codeChr[j] = 0) ∧ t.phase = .idle ∧ t.done = true ∧ t.errCode = 0 ∧
      { t with key := s.key, keyLen := s.keyLen, digest := s.digest, trunc := s.trunc, truncOff := s.truncOff,
               codeVal := s.codeVal, codeChr := s.codeChr, phase := s.phase, done := s.done,
               errCode := s.errCode } = s

/-- R185: each reserved command completes with ERR_CMD, whatever KEY_LEN and DIGITS hold, and changes nothing but PHASE, DONE
and ERR_CODE. -/
def Obligations.ReservedCompletesWithErrCmd : Prop :=
  ∀ (ie : Bool) (s : State), CompletionDue s →
    exec (.reserved0 ie) s = .next { s with phase := .idle, done := true, errCode := 1 } ∧
    exec (.reserved5 ie) s = .next { s with phase := .idle, done := true, errCode := 1 } ∧
    exec (.reserved6 ie) s = .next { s with phase := .idle, done := true, errCode := 1 } ∧
    exec (.reserved7 ie) s = .next { s with phase := .idle, done := true, errCode := 1 }

/-- 60_exceptions.md R231: GEN and HMAC with an illegal KEY_LEN raise ERR_SECRET; nothing but PHASE, DONE and ERR_CODE
changes (R234). -/
def Obligations.IllegalKeyLenRaisesErrSecret : Prop :=
  ∀ (ie : Bool) (s : State), CompletionDue s → s.keyLen.toNat = 0 ∨ 64 < s.keyLen.toNat →
    exec (.gen ie) s = .next { s with phase := .idle, done := true, errCode := 2 } ∧
    exec (.hmac ie) s = .next { s with phase := .idle, done := true, errCode := 2 }

/-- R232: TRUNC with an illegal DIGITS raises ERR_DIGITS, and so does GEN when KEY_LEN is legal (R233); nothing but PHASE,
DONE and ERR_CODE changes (R234). -/
def Obligations.IllegalDigitsRaisesErrDigits : Prop :=
  ∀ (ie : Bool) (s : State), CompletionDue s → s.digits.toNat = 0 ∨ 10 < s.digits.toNat →
    exec (.trunc ie) s = .next { s with phase := .idle, done := true, errCode := 3 } ∧
    (KeyLenLegal s → exec (.gen ie) s = .next { s with phase := .idle, done := true, errCode := 3 })

/-- R233: the one code a completion reports, for every command: ERR_CMD first, then ERR_SECRET for GEN and HMAC, then
ERR_DIGITS for GEN and TRUNC; and the completion always ends with DONE = 1, IDLE. -/
def Obligations.ErrorPriorityIsFixed : Prop :=
  ∀ (i : Instr) (s : State), CompletionDue s →
    ∃ t, exec i s = .next t ∧ t.phase = .idle ∧ t.done = true ∧
      t.errCode =
        (if i.code = 0 ∨ i.code = 5 ∨ i.code = 6 ∨ i.code = 7 then 1
        else if (i.code = 1 ∨ i.code = 2) ∧ (s.keyLen = 0 ∨ 64 < s.keyLen.toNat) then 2
        else if (i.code = 1 ∨ i.code = 3) ∧ (s.digits = 0 ∨ 10 < s.digits.toNat) then 3
        else 0)

/-- R234: errors are precise: a completion that reports an error, of any command, has done nothing but `finish`; and after a
start and its error completion the state is the one before the start, but for STATUS, CTRL and the code of the command. -/
def Obligations.ErrorsArePrecise : Prop :=
  (∀ (i : Instr) (s t : State), CompletionDue s → exec i s = .next t → t.errCode ≠ 0 →
    t = { s with phase := .idle, done := true, errCode := t.errCode }) ∧
  (∀ (i : Instr) (s t : State) (v : Word), s.phase = .idle → decode v = .ok i →
    core.run 2 { s with port := [.bus (.write 2 v), .core] } = .next t → t.errCode ≠ 0 →
    t.phase = .idle ∧ t.done = true ∧ t.ie = i.ie ∧ t.cmd = i.code ∧
      { t with ie := s.ie, cmd := s.cmd, pendingCmd := s.pendingCmd, done := s.done, errCode := s.errCode,
               port := s.port, turn := s.turn } = s)

/-- R180, corner cases: after ZEROIZE, GEN and HMAC fail with ERR_SECRET, and TRUNC succeeds with code 0 and d characters
'0'. -/
def Obligations.AfterZeroizeNoKeyIsLeft : Prop :=
  ∀ (ie : Bool) (s t : State), CompletionDue s → exec (.zeroize ie) s = .next t →
    (∃ u, exec (.gen ie) { t with phase := .busy } = .next u ∧ u.errCode = 2) ∧
    (∃ u, exec (.hmac ie) { t with phase := .busy } = .next u ∧ u.errCode = 2) ∧
    (DigitsLegal s →
      ∃ u, exec (.trunc ie) { t with phase := .busy } = .next u ∧ u.errCode = 0 ∧ u.codeVal = 0 ∧
        u.codeChars = List.replicate s.digits.toNat 0x30 ++ List.replicate (12 - s.digits.toNat) 0)

/-- R176: from an idle core with legal operands, GEN leaves in every result register what HMAC and then TRUNC leave. -/
def Obligations.GenEqualsHmacThenTrunc : Prop :=
  ∀ s : State, s.phase = .idle → KeyLenLegal s → DigitsLegal s →
    ∃ g u, core.run 2 { s with port := [.bus (.write 2 0x11), .core] } = .next g ∧
      core.run 4 { s with port := [.bus (.write 2 0x21), .core, .bus (.write 2 0x31), .core] } = .next u ∧
      g.errCode = 0 ∧ u.errCode = 0 ∧
      u.digest = g.digest ∧ u.trunc = g.trunc ∧ u.truncOff = g.truncOff ∧ u.codeVal = g.codeVal ∧ u.codeChr = g.codeChr

/-! ### The hash, the truncation and the formatter -/

/-- 40_hmac_sha1.md R101: the padding, with the least z that makes whole blocks. -/
def Obligations.PaddingMakesWholeBlocks : Prop :=
  ∀ M : List Byte, (pad M).length % 64 = 0 ∧
    ∃ z, pad M = M ++ [0x80] ++ List.replicate z 0 ++ beBytes8 (BitVec.ofNat 64 (8 * M.length)) ∧
      (M.length + 1 + z + 8) % 64 = 0 ∧ ∀ z', (M.length + 1 + z' + 8) % 64 = 0 → z ≤ z'

/-- R109, R112, R114, R115: for every key the core takes, HMAC-SHA1 is the hash of the outer message, which holds the hash of
the inner one; their bytes, and that with 72 and 84 bytes each pads to two blocks. -/
def Obligations.HmacHashesTwoPaddedMessages : Prop :=
  ∀ K M : List Byte, K.length ≤ 64 → M.length = 8 →
    hmacSha1 K M = sha1 (xorPad K 0x5C ++ sha1 (xorPad K 0x36 ++ M)) ∧
    (∀ b : Byte, (xorPad K b).length = 64 ∧ ∀ i, i < 64 → (xorPad K b)[i]? = some (K.getD i 0 ^^^ b)) ∧
    (xorPad K 0x36 ++ M).length = 72 ∧ (xorPad K 0x5C ++ sha1 (xorPad K 0x36 ++ M)).length = 84 ∧
    pad (xorPad K 0x36 ++ M) =
      xorPad K 0x36 ++ M ++ [0x80] ++ List.replicate 47 0 ++ [0, 0, 0, 0, 0, 0, 0x02, 0x40] ∧
    pad (xorPad K 0x5C ++ sha1 (xorPad K 0x36 ++ M)) =
      xorPad K 0x5C ++ sha1 (xorPad K 0x36 ++ M) ++ [0x80] ++ List.replicate 35 0 ++ [0, 0, 0, 0, 0, 0, 0x02, 0xA0] ∧
    (pad (xorPad K 0x36 ++ M)).length = 128 ∧ (pad (xorPad K 0x5C ++ sha1 (xorPad K 0x36 ++ M))).length = 128

/-- R116, 42_generate_zeroize.md R177: equal secrets and counters give equal digests, whichever of HMAC and GEN completes
and whatever every other register holds (key bytes past KEY_LEN too); with equal digit counts GEN gives equal results. -/
def Obligations.ResultsDependOnOperandsOnly : Prop :=
  ∀ (ie ie' : Bool) (s s' : State), CompletionDue s → CompletionDue s' → KeyLenLegal s → s'.keyLen = s.keyLen →
    (∀ i, i < s.keyLen.toNat → s'.keyBytes[i]? = s.keyBytes[i]?) → s'.counterHi = s.counterHi →
    s'.counterLo = s.counterLo →
    ∃ t t', exec (.hmac ie) s = .next t ∧ exec (.hmac ie') s' = .next t' ∧ t'.digest = t.digest ∧
      (DigitsLegal s → ∃ u, exec (.gen ie) s = .next u ∧ u.digest = t.digest ∧
        (s'.digits = s.digits → ∃ u', exec (.gen ie') s' = .next u' ∧ u'.digest = u.digest ∧ u'.trunc = u.trunc ∧
          u'.truncOff = u.truncOff ∧ u'.codeVal = u.codeVal ∧ u'.codeChr = u.codeChr))

/-- 41_truncation_format.md R141: the truncated value of a 20-byte digest, its bound, and that byte 19 gives the offset only:
its high half never matters (R150). -/
def Obligations.TruncationReadsFourBytes : Prop :=
  ∀ (D : List Byte) (d : Nat), D.length = 20 →
    (truncFormat D d).off.toNat = offsetOf D ∧ offsetOf D + 3 ≤ 18 ∧
    (truncFormat D d).tv.toNat = truncatedOf D ∧ (truncFormat D d).tv.toNat ≤ 2147483647 ∧
    ∀ b : Byte, b.toNat % 16 = (D.getD 19 0).toNat % 16 → truncFormat (D.set 19 b) d = truncFormat D d

/-- R145, R142: the formatter's output for every digest and every legal digit count, and that TRUNC never shows bit 31 and
TRUNC_OFF no bit above 3. -/
def Obligations.CodeIsDecimalOfFixedLength : Prop :=
  (∀ s : State, (s.readReg .trunc).getLsbD 31 = false ∧ (s.readReg .truncOff).toNat < 16) ∧
  ∀ (D : List Byte) (d : Nat), 1 ≤ d → d ≤ 10 →
    let r := truncFormat D d
    r.code = r.tv.toNat % 10 ^ d ∧
    (dec r.code d).length = d ∧ (∀ b ∈ dec r.code d, 0x30 ≤ b.toNat ∧ b.toNat ≤ 0x39) ∧
      r.code < 10 ^ d ∧ r.code < 2 ^ 31 ∧ decimalValue (dec r.code d) = r.code ∧
      r.chars = dec r.code d ++ List.replicate (12 - d) 0 ∧ (d = 10 → r.code = r.tv.toNat)

/-! ### The status bits and the interrupt -/

/-- 10_state.md R30: DONE is set only by a completion step, and cleared only by a STATUS write with bit 1, a start or a
reset; DONE and BUSY never hold together: they do not at reset, and each step keeps it so. -/
def Obligations.DoneChangesOnlyAsStated : Prop :=
  (State.reset.phase = .busy → State.reset.done = false) ∧
  ∀ s t : State, step s = .next t →
    (s.done = false → t.done = true → s.phase = .busy ∧ t.phase = .idle ∧ s.nextIsCore = true) ∧
    (s.done = true → t.done = false →
      s.nextIsReset = true ∨ (∃ v, s.nextWrite = some (3, v) ∧ v.getLsbD 1 = true) ∨
      (∃ v, s.nextWrite = some (2, v) ∧ v.getLsbD 0 = true ∧ s.phase = .idle ∧ t.phase = .busy)) ∧
    ((s.phase = .busy → s.done = false) → t.phase = .busy → t.done = false)

/-- R31: a dropped write sets WOVR, nothing else does, and only a STATUS write with bit 2 or a reset clears it; so a start
does not. -/
def Obligations.WovrIsSticky : Prop :=
  ∀ s t : State, step s = .next t →
    (s.wovr = false → t.wovr = true →
      s.phase = .busy ∧ ∃ w v, s.nextWrite = some (w, v) ∧
        (w = 2 ∧ v.getLsbD 0 = true ∨ 4 ≤ w.toNat ∧ w.toNat ≤ 7 ∨ 16 ≤ w.toNat ∧ w.toNat ≤ 36)) ∧
    (s.wovr = true → t.wovr = false →
      s.nextIsReset = true ∨ ∃ v, s.nextWrite = some (3, v) ∧ v.getLsbD 2 = true) ∧
    (∀ w v, s.phase = .busy → s.nextWrite = some (w, v) →
      w = 2 ∧ v.getLsbD 0 = true ∨ 4 ≤ w.toNat ∧ w.toNat ≤ 7 ∨ 16 ≤ w.toNat ∧ w.toNat ≤ 36 → t.wovr = true)

/-- R32: ERR_CODE is written only by a completion step, by a start (to 0) and by reset (to 0), and it stays 0 between a start
and its completion. -/
def Obligations.ErrCodeChangesOnlyAsStated : Prop :=
  ∀ s t : State, step s = .next t →
    (t.errCode ≠ s.errCode →
      (s.phase = .busy ∧ t.phase = .idle ∧ s.nextIsCore = true) ∨ (s.phase = .idle ∧ t.phase = .busy) ∨
        s.nextIsReset = true) ∧
    (s.phase = .idle → t.phase = .busy → t.errCode = 0) ∧ (s.nextIsReset = true → t.errCode = 0) ∧
    (s.phase = .busy → t.phase = .busy → t.errCode = s.errCode)

/-- 60_exceptions.md R240: irq is IE and DONE; every completion, success or error, raises it when IE is set; a completion
masked by IE = 0 becomes visible as soon as IE is set, by a configuration write; a STATUS write of DONE, a start and a reset
drop it. -/
def Obligations.CompletionRaisesIrq : Prop :=
  (∀ s : State, s.irq = (s.ie && s.done)) ∧
  ∀ (i j : Instr) (s : State), CompletionDue s →
    ∃ t, exec i s = .next t ∧ t.done = true ∧ t.irq = s.ie ∧
      (busWrite 2 0x100 t).irq = true ∧ (busWrite 2 0x000 t).irq = false ∧ (busWrite 3 0x2 t).irq = false ∧
      (∃ u, exec j { t with turn := .host } = .next u ∧ u.phase = .busy ∧ u.irq = false) ∧
      (∃ u, step { t with port := [.reset] } = .next u ∧ u.irq = false)

/-- R241: IE may be changed at any time, BUSY or not, and irq follows at once (a start clears DONE besides, R170). -/
def Obligations.IrqFollowsIe : Prop :=
  ∀ (s : State) (v : Word) (rest : List Event), s.port = .bus (.write 2 v) :: rest →
    ∃ t, step s = .next t ∧ t.ie = v.getLsbD 8 ∧ t.irq = (v.getLsbD 8 && t.done) ∧
      (v.getLsbD 0 = false ∨ s.phase = .busy → t.done = s.done)

/-! ### Order and fairness -/

/-- R243: a STATUS read and a completion that arrive together are taken in some order: the read shows BUSY = 1, DONE = 0 or
BUSY = 0, DONE = 1; a write of an operand register is dropped with WOVR or stored after the completion. -/
def Obligations.SimultaneousEventsInEitherOrder : Prop :=
  ∀ s : State, Inv s → s.phase = .busy →
    (∃ t, core.run 2 { s with port := [.bus (.read 3), .core] } = .next t ∧ t.rdata.extractLsb' 0 2 = 1) ∧
    (∃ t, core.run 2 { s with port := [.core, .bus (.read 3)] } = .next t ∧ t.rdata.extractLsb' 0 2 = 2) ∧
    (∃ c, core.run 1 { s with port := [.core] } = .next c ∧ c.phase = .idle ∧ c.wovr = s.wovr ∧
      ∀ (w : BitVec 8) (v : Word), 4 ≤ w.toNat ∧ w.toNat ≤ 7 ∨ 16 ≤ w.toNat ∧ w.toNat ≤ 36 →
        core.run 2 { s with port := [.bus (.write w v), .core] } = .next { c with wovr := true } ∧
        core.run 2 { s with port := [.core, .bus (.write w v)] } = .next (busWrite w v { c with turn := .host }))

/-- 20_memory.md R74 with R72 and R173: whatever transactions the Host makes while the core is BUSY, and however many, the
completion that follows leaves in every register but IE and WOVR, and but for the read output and the draw count, what an
immediate completion leaves. -/
def Obligations.ResultIsAsIfSampledAtStart : Prop :=
  ∀ (s : State) (accesses : List Access), s.phase = .busy →
    ∃ t u, core.run (accesses.length + 1) { s with port := accesses.map .bus ++ [.core] } = .next t ∧
      core.run 1 { s with port := [.core] } = .next u ∧ t.phase = .idle ∧
      t = { u with ie := t.ie, wovr := t.wovr, rdata := t.rdata, draws := t.draws }

/-- 70_reset_and_hazards.md R270: a command that stays BUSY completes once the Host has made its transactions, however many
they are. That the Core's turn comes when the Host is silent is the model's form of weak fairness (log entry 1). -/
def Obligations.BusyCommandCompletes : Prop :=
  ∀ (s : State) (accesses : List Access), s.phase = .busy → s.port = accesses.map .bus →
    ∃ t, core.run (accesses.length + 1) s = .next t ∧ t.done = true ∧ RunOver t

/-- 60_exceptions.md R255, 45_host_procedures.md R215: once a run is over the core keeps all its state. -/
def Obligations.IdleCoreKeepsItsState : Prop :=
  ∀ (s : State) (n : Nat), RunOver s → core.run n s = .next s

/-! ### Whole-machine claims -/

/-- The invariant of the registers holds after reset. -/
def Obligations.InvHoldsAtReset : Prop := Inv State.reset

/-- Every step keeps the invariant: ERR_CODE is at most 3 (R230), BUSY excludes DONE and an error code (R30, R32), CMD is
PENDING_CMD while BUSY (R27), and the result registers agree with one another (R145). -/
def Obligations.StepKeepsInv : Prop := ∀ s t : State, Inv s → step s = .next t → Inv t

/-- 10_state.md R35: a read of a KEY word gives 0; no run of bus transactions, of any length, from two states that differ in
the key buffer alone, ever reads or leaves a difference outside the key buffer: key bytes cannot be read back. That the
result reads while BUSY agree as well rests on the model's choice that a drawn value depends on the draw count alone (log
entry 5); by R62 two draws may differ. -/
def Obligations.KeyBytesCannotBeReadBack : Prop :=
  (∀ (s : State) (w : BitVec 8), 16 ≤ w.toNat → w.toNat < 32 → busRead w s = 0) ∧
  ∀ (accesses : List Access) (s s' : State), SameButKey s s' → s.port = accesses.map .bus →
    ∃ t t', core.run accesses.length s = .next t ∧ core.run accesses.length s' = .next t' ∧ t.rdata = t'.rdata ∧
      SameButKey t t'

/-! ### Host procedures -/

/-- 45_host_procedures.md R200, R201, R203: the Clock, with the default step of 30 seconds. That an interval is below 2^64 is
the model's choice (log entry 12). -/
def Obligations.ClockCountsWholeSteps : Prop :=
  (Clock.construct : Except HostError Clock) = .ok (.system 30) ∧
  (∀ step : Int, step ≤ 0 → Clock.construct step = .error .invalidConfiguration) ∧
  (∀ (step t : Nat), 0 < step → t / step < 2 ^ 64 →
    ∃ k, Clock.construct step = .ok k ∧ ∃ c, k.currentInterval t = .ok c ∧ c.toNat = t / step) ∧
  (∀ (k : Clock) (step : Nat) (t : Int), k = .system step → t < 0 → k.currentInterval t = .error .timeRefused)

/-- R204: the driver's construction checks; what is constructed is valid. Which check comes first where several fail, as in the
clauses on a bad secret with any digit count and on a digit count below 1 with a secret of any length, is the model's choice
and no rule of R204 (log entry 12). -/
def Obligations.DriverChecksAtConstruction : Prop :=
  (∀ (n : Int) (k : Clock) (p : Bool) (o : AckOrder), Driver.construct none n k p o = .error .invalidSecret ∧
    Driver.construct (some []) n k p o = .error .invalidSecret) ∧
  (∀ (K : List Byte) (n : Int) (k : Clock) (p : Bool) (o : AckOrder), K ≠ [] → n < 1 →
    Driver.construct (some K) n k p o = .error .invalidConfiguration) ∧
  (∀ (K : List Byte) (n : Int) (k : Clock) (p : Bool) (o : AckOrder), K ≠ [] → K.length ≤ 64 → 1 ≤ n → n ≤ 10 →
    ∃ d, Driver.construct (some K) n k p o = .ok d ∧ d.secret = K ∧ (d.digits : Int) = n ∧ d.clock = k ∧ d.ackOrder = o) ∧
  (∀ (K : Option (List Byte)) (n : Int) (k : Clock) (p : Bool) (o : AckOrder) (d : Driver),
    Driver.construct K n k p o = .ok d → d.Valid)

/-- R208, R212: the window holds exactly the counters `(c + k) mod 2^64` for k from -LOOKBACK to LOOKAHEAD; by default it is
{c - 1, c}. -/
def Obligations.WindowHoldsItsCounters : Prop :=
  (∀ c : BitVec 64, window Config.lookbackDefault Config.lookaheadDefault c = [c - 1, c]) ∧
  ∀ (lookback lookahead : Nat) (c g : BitVec 64),
    g ∈ window lookback lookahead c ↔
      ∃ k : Int, -(lookback : Int) ≤ k ∧ k ≤ lookahead ∧ (g.toNat : Int) = ((c.toNat : Int) + k) % 2 ^ 64

/-- 30_encoding.md R89 with R34: LOADKEY from an idle core leaves exactly its bytes as the secret, whatever the schedule and
whatever the key buffer held. -/
def Obligations.LoadKeyMakesTheSecret : Prop :=
  ∀ (K : List Byte) (h : HostRun), 1 ≤ K.length → K.length ≤ 64 → h.block.phase = .idle →
    ∃ h', (loadKey K).run h = .go h' ∧ h'.block.secret = K ∧ h'.block.phase = .idle ∧
      h'.block.keyLen.toNat = K.length ∧
      { h'.block with key := h.block.key, keyLen := h.block.keyLen, turn := h.block.turn } = h.block

/-- R206: generate(c) of a valid driver on an idle core ends, whatever number of polls comes before the completion and
whichever place its ACK has (R206, R275; log entry 20), and returns the Code `dec(HOTP(Kx, c, d), d)`. The key is loaded in every call (log entry 19). -/
def Obligations.GenerateReturnsTheCode : Prop :=
  ∀ (d : Driver) (c : BitVec 64) (h : HostRun), d.Valid → h.block.phase = .idle →
    ∃ h', generate d c h = .ok (hotpCode d.secret c d.digits) h' ∧ h'.block.phase = .idle ∧ h'.block.done = false ∧
      h'.block.errCode = 0 ∧ h'.block.port = h.block.port

/-- R209, R211: verify of a valid driver on an idle core never raises, and returns true exactly when a counter of the window
gives the candidate. It holds whatever key the block held before because generate loads the key in every call, which is the
model's choice (log entry 19). -/
def Obligations.VerifyAcceptsExactlyTheWindow : Prop :=
  ∀ (d : Driver) (t : Int) (candidate : List Byte) (h : HostRun) (c : BitVec 64), d.Valid → h.block.phase = .idle →
    d.clock.currentInterval t = .ok c →
    ∃ (b : Bool) (h' : HostRun), verify d t candidate h = .ok b h' ∧
      (b = true ↔ ∃ g ∈ window d.lookback d.lookahead c, hotpCode d.secret g d.digits = candidate)

/-- R213: with the default window, a code made at counter g is accepted at g and g + 1, and elsewhere only if it collides with
a code of the window. It holds whatever key the block held before because generate loads the key in every call, which is the
model's choice (log entry 19). -/
def Obligations.AcceptanceInCounterTerms : Prop :=
  ∀ (d : Driver) (t : Int) (h : HostRun) (c g : BitVec 64), d.Valid → d.lookback = 1 → d.lookahead = 0 →
    h.block.phase = .idle → d.clock.currentInterval t = .ok c →
    ∃ (b : Bool) (h' : HostRun), verify d t (hotpCode d.secret g d.digits) h = .ok b h' ∧
      (c - g = 0 ∨ c - g = 1 → b = true) ∧
      (b = true ↔ hotpCode d.secret g d.digits = hotpCode d.secret c d.digits ∨
        hotpCode d.secret g d.digits = hotpCode d.secret (c - 1) d.digits)

/-- R214: with STEP = 30, a code made at t_g and presented at t_v verifies when c - g <= 1, as whenever t_v - t_g <= 30; made
one second before a boundary and presented 31 to 61 seconds on it verifies only by a collision. It holds whatever key the blocks held before because generate loads the key in
every call, which is the model's choice (log entry 19). -/
def Obligations.AcceptanceInTimeTerms : Prop :=
  ∀ (d : Driver) (tg tv : Nat) (h h1 : HostRun), d.Valid → d.lookback = 1 → d.lookahead = 0 →
    d.clock = .system 30 → tg ≤ tv → tv / 30 < 2 ^ 64 → h.block.phase = .idle → h1.block.phase = .idle →
    ∃ (h' h1' : HostRun) (b : Bool), now d tg h = .ok (hotpCode d.secret (BitVec.ofNat 64 (tg / 30)) d.digits) h' ∧
      verify d tv (hotpCode d.secret (BitVec.ofNat 64 (tg / 30)) d.digits) h1 = .ok b h1' ∧
      (tv / 30 - tg / 30 ≤ 1 → b = true) ∧ (tv - tg ≤ 30 → b = true) ∧
      (tg % 30 = 29 → 31 ≤ tv - tg → tv - tg ≤ 61 →
        tv / 30 = tg / 30 + (if tv - tg = 61 then 3 else 2) ∧
        (b = true ↔
          hotpCode d.secret (BitVec.ofNat 64 (tg / 30)) d.digits = hotpCode d.secret (BitVec.ofNat 64 (tv / 30)) d.digits ∨
          hotpCode d.secret (BitVec.ofNat 64 (tg / 30)) d.digits =
            hotpCode d.secret (BitVec.ofNat 64 (tv / 30) - 1) d.digits))
end

