-- ==== Sys2Proof/Laws/Bytes.lean ====
section
/-! SUPPORT. Byte strings and words: lengths, and that reading big-endian what was written big-endian gives it back. -/

namespace Sys2Proof.Machine

@[simp] theorem be4_length (x : Word) : (be4 x).length = 4 := rfl

@[simp] theorem beBytes8_length (v : BitVec 64) : (beBytes8 v).length = 8 := rfl

@[simp] theorem dec_length (n d : Nat) : (dec n d).length = d := by simp [dec]

theorem wordsBytes_length (ws : List Word) : (wordsBytes ws).length = 4 * ws.length := by
  induction ws with
  | nil => rfl
  | cons w ws ih => simp [wordsBytes] at ih ⊢; omega

@[simp] theorem Chain.bytes_length (h : Chain) : h.bytes.length = 20 := rfl

@[simp] theorem sha1_length (M : List Byte) : (sha1 M).length = 20 := rfl

@[simp] theorem hmacSha1_length (K M : List Byte) : (hmacSha1 K M).length = 20 := rfl

/-- Four bytes read as a word and written out again. -/
theorem be4_append (a b c d : Byte) : be4 (a ++ b ++ c ++ d) = [a, b, c, d] := by
  simp only [be4, List.cons.injEq, and_true]
  refine ⟨?_, ?_, ?_, ?_⟩ <;> (ext i hi; simp; grind)

theorem be32_be4_append (x : Word) (rest : List Byte) : be32 (be4 x ++ rest) 0 = x := by
  simp only [be32, be4]
  ext i hi
  simp; grind

end Sys2Proof.Machine
end

