-- ==== Sys2Proof/Laws/Encoding.lean ====
section
/-! SUPPORT. The fields of a command word and the codes of the commands, each as the decoder and the encoder see it. -/

namespace Sys2Proof

@[simp] theorem instrOfCode_code (c : BitVec 3) (ie : Bool) : (instrOfCode c ie).code = c := by
  revert c ie; decide

@[simp] theorem instrOfCode_ie (c : BitVec 3) (ie : Bool) : (instrOfCode c ie).ie = ie := by
  revert c ie; decide

@[simp] theorem instrOfCode_of_code (i : Instr) : instrOfCode i.code i.ie = i := by
  cases i <;> rfl

theorem instr_ext (i j : Instr) (hcode : i.code = j.code) (hie : i.ie = j.ie) : i = j := by
  rw [← instrOfCode_of_code i, ← instrOfCode_of_code j, hcode, hie]

@[simp] theorem startBit_encode (i : Instr) : startBit (encode i) = true := by
  cases i <;> rename_i ie <;> cases ie <;> decide

@[simp] theorem cmdField_encode (i : Instr) : cmdField (encode i) = i.code := by
  cases i <;> rename_i ie <;> cases ie <;> decide

@[simp] theorem ieField_encode (i : Instr) : ieField (encode i) = i.ie := by
  cases i <;> rename_i ie <;> cases ie <;> decide

/-- Decoding by cases on START. -/
theorem decode_started (v : Word) (h : startBit v = true) : decode v = .ok (instrOfCode (cmdField v) (ieField v)) :=
  if_pos h

theorem decode_unstarted (v : Word) (h : startBit v = false) : decode v = .error .configurationWrite := by
  simp [decode, h]

/-- What a decoded command says of the word's three fields. -/
theorem fields_of_decode (v : Word) (i : Instr) (h : decode v = .ok i) :
    startBit v = true ∧ cmdField v = i.code ∧ ieField v = i.ie := by
  cases hs : startBit v with
  | false => rw [decode_unstarted v hs] at h; cases h
  | true =>
    rw [decode_started v hs] at h
    cases h
    exact ⟨rfl, by simp, by simp⟩

end Sys2Proof
end

