-- ==== Sys2Proof/Laws/State.lean ====
section
/-! SUPPORT. For each named update of the state, what it does to each field: true by definition, so that no later proof
unfolds a record update. -/

namespace Sys2Proof.Machine

section PerformRead
variable (w : BitVec 8) (s : State)

@[simp] theorem performRead_ie : (performRead w s).ie = s.ie := rfl
@[simp] theorem performRead_cmd : (performRead w s).cmd = s.cmd := rfl
@[simp] theorem performRead_phase : (performRead w s).phase = s.phase := rfl
@[simp] theorem performRead_pendingCmd : (performRead w s).pendingCmd = s.pendingCmd := rfl
@[simp] theorem performRead_done : (performRead w s).done = s.done := rfl
@[simp] theorem performRead_wovr : (performRead w s).wovr = s.wovr := rfl
@[simp] theorem performRead_errCode : (performRead w s).errCode = s.errCode := rfl
@[simp] theorem performRead_keyLen : (performRead w s).keyLen = s.keyLen := rfl
@[simp] theorem performRead_digits : (performRead w s).digits = s.digits := rfl
@[simp] theorem performRead_counterHi : (performRead w s).counterHi = s.counterHi := rfl
@[simp] theorem performRead_counterLo : (performRead w s).counterLo = s.counterLo := rfl
@[simp] theorem performRead_key : (performRead w s).key = s.key := rfl
@[simp] theorem performRead_digest : (performRead w s).digest = s.digest := rfl
@[simp] theorem performRead_trunc : (performRead w s).trunc = s.trunc := rfl
@[simp] theorem performRead_truncOff : (performRead w s).truncOff = s.truncOff := rfl
@[simp] theorem performRead_codeVal : (performRead w s).codeVal = s.codeVal := rfl
@[simp] theorem performRead_codeChr : (performRead w s).codeChr = s.codeChr := rfl
@[simp] theorem performRead_port : (performRead w s).port = s.port := rfl
@[simp] theorem performRead_turn : (performRead w s).turn = s.turn := rfl
@[simp] theorem performRead_rdata : (performRead w s).rdata = busRead w s := rfl
@[simp] theorem performRead_draws : (performRead w s).draws = if readDraws w s then s.draws + 1 else s.draws := rfl

end PerformRead

section StartCommand
variable (c : BitVec 3) (s : State)

@[simp] theorem startCommand_ie : (startCommand c s).ie = s.ie := rfl
@[simp] theorem startCommand_cmd : (startCommand c s).cmd = s.cmd := rfl
@[simp] theorem startCommand_phase : (startCommand c s).phase = .busy := rfl
@[simp] theorem startCommand_pendingCmd : (startCommand c s).pendingCmd = c := rfl
@[simp] theorem startCommand_done : (startCommand c s).done = false := rfl
@[simp] theorem startCommand_wovr : (startCommand c s).wovr = s.wovr := rfl
@[simp] theorem startCommand_errCode : (startCommand c s).errCode = errNone := rfl
@[simp] theorem startCommand_keyLen : (startCommand c s).keyLen = s.keyLen := rfl
@[simp] theorem startCommand_digits : (startCommand c s).digits = s.digits := rfl
@[simp] theorem startCommand_counterHi : (startCommand c s).counterHi = s.counterHi := rfl
@[simp] theorem startCommand_counterLo : (startCommand c s).counterLo = s.counterLo := rfl
@[simp] theorem startCommand_key : (startCommand c s).key = s.key := rfl
@[simp] theorem startCommand_digest : (startCommand c s).digest = s.digest := rfl
@[simp] theorem startCommand_trunc : (startCommand c s).trunc = s.trunc := rfl
@[simp] theorem startCommand_truncOff : (startCommand c s).truncOff = s.truncOff := rfl
@[simp] theorem startCommand_codeVal : (startCommand c s).codeVal = s.codeVal := rfl
@[simp] theorem startCommand_codeChr : (startCommand c s).codeChr = s.codeChr := rfl
@[simp] theorem startCommand_port : (startCommand c s).port = s.port := rfl
@[simp] theorem startCommand_turn : (startCommand c s).turn = s.turn := rfl
@[simp] theorem startCommand_rdata : (startCommand c s).rdata = s.rdata := rfl
@[simp] theorem startCommand_draws : (startCommand c s).draws = s.draws := rfl

end StartCommand

section Finish
variable (e : BitVec 4) (s : State)

@[simp] theorem finish_ie : (finish e s).ie = s.ie := rfl
@[simp] theorem finish_cmd : (finish e s).cmd = s.cmd := rfl
@[simp] theorem finish_phase : (finish e s).phase = .idle := rfl
@[simp] theorem finish_pendingCmd : (finish e s).pendingCmd = s.pendingCmd := rfl
@[simp] theorem finish_done : (finish e s).done = true := rfl
@[simp] theorem finish_wovr : (finish e s).wovr = s.wovr := rfl
@[simp] theorem finish_errCode : (finish e s).errCode = e := rfl
@[simp] theorem finish_keyLen : (finish e s).keyLen = s.keyLen := rfl
@[simp] theorem finish_digits : (finish e s).digits = s.digits := rfl
@[simp] theorem finish_counterHi : (finish e s).counterHi = s.counterHi := rfl
@[simp] theorem finish_counterLo : (finish e s).counterLo = s.counterLo := rfl
@[simp] theorem finish_key : (finish e s).key = s.key := rfl
@[simp] theorem finish_digest : (finish e s).digest = s.digest := rfl
@[simp] theorem finish_trunc : (finish e s).trunc = s.trunc := rfl
@[simp] theorem finish_truncOff : (finish e s).truncOff = s.truncOff := rfl
@[simp] theorem finish_codeVal : (finish e s).codeVal = s.codeVal := rfl
@[simp] theorem finish_codeChr : (finish e s).codeChr = s.codeChr := rfl
@[simp] theorem finish_port : (finish e s).port = s.port := rfl
@[simp] theorem finish_turn : (finish e s).turn = s.turn := rfl
@[simp] theorem finish_rdata : (finish e s).rdata = s.rdata := rfl
@[simp] theorem finish_draws : (finish e s).draws = s.draws := rfl

end Finish

section RaiseError
variable (e : CmdError) (s : State)

@[simp] theorem raiseError_ie : (raiseError e s).ie = s.ie := rfl
@[simp] theorem raiseError_cmd : (raiseError e s).cmd = s.cmd := rfl
@[simp] theorem raiseError_phase : (raiseError e s).phase = .idle := rfl
@[simp] theorem raiseError_pendingCmd : (raiseError e s).pendingCmd = s.pendingCmd := rfl
@[simp] theorem raiseError_done : (raiseError e s).done = true := rfl
@[simp] theorem raiseError_wovr : (raiseError e s).wovr = s.wovr := rfl
@[simp] theorem raiseError_errCode : (raiseError e s).errCode = e.code := rfl
@[simp] theorem raiseError_keyLen : (raiseError e s).keyLen = s.keyLen := rfl
@[simp] theorem raiseError_digits : (raiseError e s).digits = s.digits := rfl
@[simp] theorem raiseError_counterHi : (raiseError e s).counterHi = s.counterHi := rfl
@[simp] theorem raiseError_counterLo : (raiseError e s).counterLo = s.counterLo := rfl
@[simp] theorem raiseError_key : (raiseError e s).key = s.key := rfl
@[simp] theorem raiseError_digest : (raiseError e s).digest = s.digest := rfl
@[simp] theorem raiseError_trunc : (raiseError e s).trunc = s.trunc := rfl
@[simp] theorem raiseError_truncOff : (raiseError e s).truncOff = s.truncOff := rfl
@[simp] theorem raiseError_codeVal : (raiseError e s).codeVal = s.codeVal := rfl
@[simp] theorem raiseError_codeChr : (raiseError e s).codeChr = s.codeChr := rfl
@[simp] theorem raiseError_port : (raiseError e s).port = s.port := rfl
@[simp] theorem raiseError_turn : (raiseError e s).turn = s.turn := rfl
@[simp] theorem raiseError_rdata : (raiseError e s).rdata = s.rdata := rfl
@[simp] theorem raiseError_draws : (raiseError e s).draws = s.draws := rfl

end RaiseError

section DropWrite
variable (s : State)

@[simp] theorem dropWrite_ie : (dropWrite s).ie = s.ie := rfl
@[simp] theorem dropWrite_cmd : (dropWrite s).cmd = s.cmd := rfl
@[simp] theorem dropWrite_phase : (dropWrite s).phase = s.phase := rfl
@[simp] theorem dropWrite_pendingCmd : (dropWrite s).pendingCmd = s.pendingCmd := rfl
@[simp] theorem dropWrite_done : (dropWrite s).done = s.done := rfl
@[simp] theorem dropWrite_wovr : (dropWrite s).wovr = true := rfl
@[simp] theorem dropWrite_errCode : (dropWrite s).errCode = s.errCode := rfl
@[simp] theorem dropWrite_keyLen : (dropWrite s).keyLen = s.keyLen := rfl
@[simp] theorem dropWrite_digits : (dropWrite s).digits = s.digits := rfl
@[simp] theorem dropWrite_counterHi : (dropWrite s).counterHi = s.counterHi := rfl
@[simp] theorem dropWrite_counterLo : (dropWrite s).counterLo = s.counterLo := rfl
@[simp] theorem dropWrite_key : (dropWrite s).key = s.key := rfl
@[simp] theorem dropWrite_digest : (dropWrite s).digest = s.digest := rfl
@[simp] theorem dropWrite_trunc : (dropWrite s).trunc = s.trunc := rfl
@[simp] theorem dropWrite_truncOff : (dropWrite s).truncOff = s.truncOff := rfl
@[simp] theorem dropWrite_codeVal : (dropWrite s).codeVal = s.codeVal := rfl
@[simp] theorem dropWrite_codeChr : (dropWrite s).codeChr = s.codeChr := rfl
@[simp] theorem dropWrite_port : (dropWrite s).port = s.port := rfl
@[simp] theorem dropWrite_turn : (dropWrite s).turn = s.turn := rfl
@[simp] theorem dropWrite_rdata : (dropWrite s).rdata = s.rdata := rfl
@[simp] theorem dropWrite_draws : (dropWrite s).draws = s.draws := rfl

end DropWrite

section StatusWrite
variable (v : Word) (s : State)

@[simp] theorem statusWrite_ie : (statusWrite v s).ie = s.ie := rfl
@[simp] theorem statusWrite_cmd : (statusWrite v s).cmd = s.cmd := rfl
@[simp] theorem statusWrite_phase : (statusWrite v s).phase = s.phase := rfl
@[simp] theorem statusWrite_pendingCmd : (statusWrite v s).pendingCmd = s.pendingCmd := rfl
@[simp] theorem statusWrite_done : (statusWrite v s).done = if v.getLsbD 1 then false else s.done := rfl
@[simp] theorem statusWrite_wovr : (statusWrite v s).wovr = if v.getLsbD 2 then false else s.wovr := rfl
@[simp] theorem statusWrite_errCode : (statusWrite v s).errCode = s.errCode := rfl
@[simp] theorem statusWrite_keyLen : (statusWrite v s).keyLen = s.keyLen := rfl
@[simp] theorem statusWrite_digits : (statusWrite v s).digits = s.digits := rfl
@[simp] theorem statusWrite_counterHi : (statusWrite v s).counterHi = s.counterHi := rfl
@[simp] theorem statusWrite_counterLo : (statusWrite v s).counterLo = s.counterLo := rfl
@[simp] theorem statusWrite_key : (statusWrite v s).key = s.key := rfl
@[simp] theorem statusWrite_digest : (statusWrite v s).digest = s.digest := rfl
@[simp] theorem statusWrite_trunc : (statusWrite v s).trunc = s.trunc := rfl
@[simp] theorem statusWrite_truncOff : (statusWrite v s).truncOff = s.truncOff := rfl
@[simp] theorem statusWrite_codeVal : (statusWrite v s).codeVal = s.codeVal := rfl
@[simp] theorem statusWrite_codeChr : (statusWrite v s).codeChr = s.codeChr := rfl
@[simp] theorem statusWrite_port : (statusWrite v s).port = s.port := rfl
@[simp] theorem statusWrite_turn : (statusWrite v s).turn = s.turn := rfl
@[simp] theorem statusWrite_rdata : (statusWrite v s).rdata = s.rdata := rfl
@[simp] theorem statusWrite_draws : (statusWrite v s).draws = s.draws := rfl

end StatusWrite

section StoreDigest
variable (D : List Byte) (s : State)

@[simp] theorem storeDigest_ie : (storeDigest D s).ie = s.ie := rfl
@[simp] theorem storeDigest_cmd : (storeDigest D s).cmd = s.cmd := rfl
@[simp] theorem storeDigest_phase : (storeDigest D s).phase = s.phase := rfl
@[simp] theorem storeDigest_pendingCmd : (storeDigest D s).pendingCmd = s.pendingCmd := rfl
@[simp] theorem storeDigest_done : (storeDigest D s).done = s.done := rfl
@[simp] theorem storeDigest_wovr : (storeDigest D s).wovr = s.wovr := rfl
@[simp] theorem storeDigest_errCode : (storeDigest D s).errCode = s.errCode := rfl
@[simp] theorem storeDigest_keyLen : (storeDigest D s).keyLen = s.keyLen := rfl
@[simp] theorem storeDigest_digits : (storeDigest D s).digits = s.digits := rfl
@[simp] theorem storeDigest_counterHi : (storeDigest D s).counterHi = s.counterHi := rfl
@[simp] theorem storeDigest_counterLo : (storeDigest D s).counterLo = s.counterLo := rfl
@[simp] theorem storeDigest_key : (storeDigest D s).key = s.key := rfl
@[simp] theorem storeDigest_digest : (storeDigest D s).digest = #v[be32 D 0, be32 D 4, be32 D 8, be32 D 12, be32 D 16] := rfl
@[simp] theorem storeDigest_trunc : (storeDigest D s).trunc = s.trunc := rfl
@[simp] theorem storeDigest_truncOff : (storeDigest D s).truncOff = s.truncOff := rfl
@[simp] theorem storeDigest_codeVal : (storeDigest D s).codeVal = s.codeVal := rfl
@[simp] theorem storeDigest_codeChr : (storeDigest D s).codeChr = s.codeChr := rfl
@[simp] theorem storeDigest_port : (storeDigest D s).port = s.port := rfl
@[simp] theorem storeDigest_turn : (storeDigest D s).turn = s.turn := rfl
@[simp] theorem storeDigest_rdata : (storeDigest D s).rdata = s.rdata := rfl
@[simp] theorem storeDigest_draws : (storeDigest D s).draws = s.draws := rfl

end StoreDigest

section WriteTruncResults
variable (r : TruncResult) (s : State)

@[simp] theorem writeTruncResults_ie : (writeTruncResults r s).ie = s.ie := rfl
@[simp] theorem writeTruncResults_cmd : (writeTruncResults r s).cmd = s.cmd := rfl
@[simp] theorem writeTruncResults_phase : (writeTruncResults r s).phase = s.phase := rfl
@[simp] theorem writeTruncResults_pendingCmd : (writeTruncResults r s).pendingCmd = s.pendingCmd := rfl
@[simp] theorem writeTruncResults_done : (writeTruncResults r s).done = s.done := rfl
@[simp] theorem writeTruncResults_wovr : (writeTruncResults r s).wovr = s.wovr := rfl
@[simp] theorem writeTruncResults_errCode : (writeTruncResults r s).errCode = s.errCode := rfl
@[simp] theorem writeTruncResults_keyLen : (writeTruncResults r s).keyLen = s.keyLen := rfl
@[simp] theorem writeTruncResults_digits : (writeTruncResults r s).digits = s.digits := rfl
@[simp] theorem writeTruncResults_counterHi : (writeTruncResults r s).counterHi = s.counterHi := rfl
@[simp] theorem writeTruncResults_counterLo : (writeTruncResults r s).counterLo = s.counterLo := rfl
@[simp] theorem writeTruncResults_key : (writeTruncResults r s).key = s.key := rfl
@[simp] theorem writeTruncResults_digest : (writeTruncResults r s).digest = s.digest := rfl
@[simp] theorem writeTruncResults_trunc : (writeTruncResults r s).trunc = r.tv.setWidth 31 := rfl
@[simp] theorem writeTruncResults_truncOff : (writeTruncResults r s).truncOff = r.off := rfl
@[simp] theorem writeTruncResults_codeVal : (writeTruncResults r s).codeVal = BitVec.ofNat 32 r.code := rfl
@[simp] theorem writeTruncResults_codeChr : (writeTruncResults r s).codeChr = #v[be32 r.chars 0, be32 r.chars 4, be32 r.chars 8] := rfl
@[simp] theorem writeTruncResults_port : (writeTruncResults r s).port = s.port := rfl
@[simp] theorem writeTruncResults_turn : (writeTruncResults r s).turn = s.turn := rfl
@[simp] theorem writeTruncResults_rdata : (writeTruncResults r s).rdata = s.rdata := rfl
@[simp] theorem writeTruncResults_draws : (writeTruncResults r s).draws = s.draws := rfl

end WriteTruncResults

section ClearSecrets
variable (s : State)

@[simp] theorem clearSecrets_ie : (clearSecrets s).ie = s.ie := rfl
@[simp] theorem clearSecrets_cmd : (clearSecrets s).cmd = s.cmd := rfl
@[simp] theorem clearSecrets_phase : (clearSecrets s).phase = s.phase := rfl
@[simp] theorem clearSecrets_pendingCmd : (clearSecrets s).pendingCmd = s.pendingCmd := rfl
@[simp] theorem clearSecrets_done : (clearSecrets s).done = s.done := rfl
@[simp] theorem clearSecrets_wovr : (clearSecrets s).wovr = s.wovr := rfl
@[simp] theorem clearSecrets_errCode : (clearSecrets s).errCode = s.errCode := rfl
@[simp] theorem clearSecrets_keyLen : (clearSecrets s).keyLen = 0 := rfl
@[simp] theorem clearSecrets_digits : (clearSecrets s).digits = s.digits := rfl
@[simp] theorem clearSecrets_counterHi : (clearSecrets s).counterHi = s.counterHi := rfl
@[simp] theorem clearSecrets_counterLo : (clearSecrets s).counterLo = s.counterLo := rfl
@[simp] theorem clearSecrets_key : (clearSecrets s).key = Vector.replicate 16 0 := rfl
@[simp] theorem clearSecrets_digest : (clearSecrets s).digest = Vector.replicate 5 0 := rfl
@[simp] theorem clearSecrets_trunc : (clearSecrets s).trunc = 0 := rfl
@[simp] theorem clearSecrets_truncOff : (clearSecrets s).truncOff = 0 := rfl
@[simp] theorem clearSecrets_codeVal : (clearSecrets s).codeVal = 0 := rfl
@[simp] theorem clearSecrets_codeChr : (clearSecrets s).codeChr = Vector.replicate 3 0 := rfl
@[simp] theorem clearSecrets_port : (clearSecrets s).port = s.port := rfl
@[simp] theorem clearSecrets_turn : (clearSecrets s).turn = s.turn := rfl
@[simp] theorem clearSecrets_rdata : (clearSecrets s).rdata = s.rdata := rfl
@[simp] theorem clearSecrets_draws : (clearSecrets s).draws = s.draws := rfl

end ClearSecrets

section ResetBlock
variable (s : State)

@[simp] theorem resetBlock_ie : (resetBlock s).ie = State.reset.ie := rfl
@[simp] theorem resetBlock_cmd : (resetBlock s).cmd = State.reset.cmd := rfl
@[simp] theorem resetBlock_phase : (resetBlock s).phase = State.reset.phase := rfl
@[simp] theorem resetBlock_pendingCmd : (resetBlock s).pendingCmd = State.reset.pendingCmd := rfl
@[simp] theorem resetBlock_done : (resetBlock s).done = State.reset.done := rfl
@[simp] theorem resetBlock_wovr : (resetBlock s).wovr = State.reset.wovr := rfl
@[simp] theorem resetBlock_errCode : (resetBlock s).errCode = State.reset.errCode := rfl
@[simp] theorem resetBlock_keyLen : (resetBlock s).keyLen = State.reset.keyLen := rfl
@[simp] theorem resetBlock_digits : (resetBlock s).digits = State.reset.digits := rfl
@[simp] theorem resetBlock_counterHi : (resetBlock s).counterHi = State.reset.counterHi := rfl
@[simp] theorem resetBlock_counterLo : (resetBlock s).counterLo = State.reset.counterLo := rfl
@[simp] theorem resetBlock_key : (resetBlock s).key = State.reset.key := rfl
@[simp] theorem resetBlock_digest : (resetBlock s).digest = State.reset.digest := rfl
@[simp] theorem resetBlock_trunc : (resetBlock s).trunc = State.reset.trunc := rfl
@[simp] theorem resetBlock_truncOff : (resetBlock s).truncOff = State.reset.truncOff := rfl
@[simp] theorem resetBlock_codeVal : (resetBlock s).codeVal = State.reset.codeVal := rfl
@[simp] theorem resetBlock_codeChr : (resetBlock s).codeChr = State.reset.codeChr := rfl
@[simp] theorem resetBlock_port : (resetBlock s).port = s.port := rfl
@[simp] theorem resetBlock_turn : (resetBlock s).turn = State.reset.turn := rfl
@[simp] theorem resetBlock_rdata : (resetBlock s).rdata = s.rdata := rfl
@[simp] theorem resetBlock_draws : (resetBlock s).draws = s.draws := rfl

end ResetBlock

end Sys2Proof.Machine
end

