-- ==== Sys2Proof/Laws/Ops.lean ====
section
/-! SUPPORT. For each shared operation one lemma that says all it can do, and for `step` one lemma per kind of input. -/

namespace Sys2Proof.Machine

/-! ### The register map -/

@[simp] theorem regAt_index (r : Reg) : regAt r.index = r := by
  cases r with
  | codeChr j => revert j; decide
  | key j => revert j; decide
  | digest j => revert j; decide
  | _ => decide

theorem regAt_eq_ctrl (w : BitVec 8) : regAt w = .ctrl ↔ w = 2 := by revert w; decide

theorem regAt_eq_status (w : BitVec 8) : regAt w = .status ↔ w = 3 := by revert w; decide

/-- The operand registers, by word index (R64). -/
theorem regAt_isOperand (w : BitVec 8) :
    (regAt w).isOperand = true ↔ 4 ≤ w.toNat ∧ w.toNat ≤ 7 ∨ 16 ≤ w.toNat ∧ w.toNat ≤ 36 := by revert w; decide

theorem busy_iff (s : State) : s.busy = true ↔ s.phase = .busy := by
  unfold State.busy; cases s.phase <;> simp

/-! ### Writes -/

/-- A CTRL write while IDLE (R63). -/
theorem ctrlWrite_idle (v : Word) (s : State) (h : s.phase = .idle) :
    ctrlWrite v s = if startBit v then startCommand (cmdField v) { s with ie := ieField v, cmd := cmdField v }
      else { s with ie := ieField v, cmd := cmdField v } := by
  simp [ctrlWrite, h]

/-- A CTRL write while BUSY (R64). -/
theorem ctrlWrite_busy (v : Word) (s : State) (h : s.phase = .busy) :
    ctrlWrite v s = if startBit v then dropWrite { s with ie := ieField v } else { s with ie := ieField v } := by
  simp [ctrlWrite, h]

/-- A CTRL write looks at START, CMD and IE only (R81): a decoded word does what the canonical word does. -/
theorem ctrlWrite_decode (v : Word) (i : Instr) (s : State) (h : decode v = .ok i) :
    ctrlWrite v s = ctrlWrite (encode i) s := by
  obtain ⟨hs, hc, hi⟩ := fields_of_decode v i h
  simp [ctrlWrite, hs, hc, hi]

theorem dataWrite_idle (r : Reg) (v : Word) (s : State) (h : s.phase = .idle) : dataWrite r v s = storeReg r v s := by
  simp [dataWrite, h]

theorem dataWrite_busy (r : Reg) (v : Word) (s : State) (h : s.phase = .busy) :
    dataWrite r v s = if r.isOperand then dropWrite s else s := by
  simp [dataWrite, h]

/-- A bus write by its register: CTRL, STATUS, or data (R63 to R65). -/
theorem busWrite_cases (w : BitVec 8) (v : Word) (s : State) :
    (w = 2 ∧ busWrite w v s = ctrlWrite v s) ∨ (w = 3 ∧ busWrite w v s = statusWrite v s) ∨
      (w ≠ 2 ∧ w ≠ 3 ∧ busWrite w v s = dataWrite (regAt w) v s) := by
  unfold busWrite
  split
  · next h => exact .inl ⟨(regAt_eq_ctrl w).mp h, rfl⟩
  · next h => exact .inr (.inl ⟨(regAt_eq_status w).mp h, rfl⟩)
  · next h1 h2 =>
    exact .inr (.inr ⟨fun h => h1 ((regAt_eq_ctrl w).mpr h), fun h => h2 ((regAt_eq_status w).mpr h), rfl⟩)

@[simp] theorem busWrite_index (r : Reg) (v : Word) (s : State) (h1 : r ≠ .ctrl) (h2 : r ≠ .status) :
    busWrite r.index v s = dataWrite r v s := by
  unfold busWrite; rw [regAt_index]; cases r <;> first | rfl | exact absurd rfl h1 | exact absurd rfl h2

/-- What a store to a data register can change (R63). -/
theorem storeReg_frame (r : Reg) (v : Word) (s : State) :
    { storeReg r v s with
      keyLen := s.keyLen, digits := s.digits, counterHi := s.counterHi, counterLo := s.counterLo, key := s.key,
      digest := s.digest } = s := by
  cases r <;> rfl

/-- A bus write while BUSY changes IE, DONE and WOVR at most (R64, R65). -/
theorem busWrite_busy_frame (w : BitVec 8) (v : Word) (s : State) (h : s.phase = .busy) :
    busWrite w v s = { s with ie := (busWrite w v s).ie, done := (busWrite w v s).done, wovr := (busWrite w v s).wovr } := by
  obtain ⟨-, e⟩ | ⟨-, e⟩ | ⟨-, -, e⟩ := busWrite_cases w v s
  · rw [e, ctrlWrite_busy v s h]; split <;> rfl
  · rw [e]; rfl
  · rw [e, dataWrite_busy _ v s h]; split <;> rfl

/-! ### A command's atomic step -/

theorem commandStep_start (i : Instr) (complete : State → State) (s : State) (h : s.turn = .host) :
    commandStep i complete s = .next (ctrlWrite (encode i) s) := by
  simp [commandStep, h]

theorem commandStep_complete (i : Instr) (complete : State → State) (s : State) (h : CompletionDue s) :
    commandStep i complete s = .next (complete s) := by
  simp [commandStep, h.1, h.2]

theorem commandStep_idle (i : Instr) (complete : State → State) (s : State) (ht : s.turn = .core) (hp : s.phase = .idle) :
    commandStep i complete s = .next s := by
  simp [commandStep, ht, hp]

/-- The completion of each command (R171). -/
def completeOf : Instr → State → State
  | .reserved0 _ | .reserved5 _ | .reserved6 _ | .reserved7 _ => completeReserved
  | .gen _ => completeGen
  | .hmac _ => completeHmac
  | .trunc _ => completeTrunc
  | .zeroize _ => completeZeroize

/-- Every arm is the atomic step that is due. -/
theorem exec_eq (i : Instr) (s : State) : exec i s = commandStep i (completeOf i) s := by
  cases i <;> rfl

theorem exec_start (i : Instr) (s : State) (h : s.turn = .host) : exec i s = .next (ctrlWrite (encode i) s) := by
  rw [exec_eq, commandStep_start i _ s h]

theorem exec_complete (i : Instr) (s : State) (h : CompletionDue s) : exec i s = .next (completeOf i s) := by
  rw [exec_eq, commandStep_complete i _ s h]

/-- exec answers a next state for every command and state. -/
theorem exec_runs (i : Instr) (s : State) : ∃ t, exec i s = .next t := by
  rw [exec_eq]; unfold commandStep
  cases s.turn with
  | host => exact ⟨_, rfl⟩
  | core => cases s.phase <;> exact ⟨_, rfl⟩

/-- A completion ends IDLE with DONE set (R171), for every command. -/
theorem completeOf_ends (i : Instr) (s : State) : (completeOf i s).phase = .idle ∧ (completeOf i s).done = true := by
  cases i <;> simp [completeOf, completeReserved, completeGen, completeHmac, completeTrunc, completeZeroize] <;>
    (repeat' split) <;> simp

/-- What no completion changes (R171 and the completion rules). -/
theorem completeOf_frame (i : Instr) (s : State) :
    { completeOf i s with
      phase := s.phase, done := s.done, errCode := s.errCode, keyLen := s.keyLen, key := s.key, digest := s.digest,
      trunc := s.trunc, truncOff := s.truncOff, codeVal := s.codeVal, codeChr := s.codeChr } = s := by
  cases i <;> simp only [completeOf, completeReserved, completeGen, completeHmac, completeTrunc, completeZeroize] <;>
    (repeat' split) <;> rfl

/-! ### Steps, by the kind of input -/

theorem fetch_nil (s : State) (h : s.port = []) : fetch s = coreTurn s := by
  unfold fetch; rw [h]

theorem fetch_cons (s : State) (e : Event) (rest : List Event) (h : s.port = e :: rest) :
    fetch s = takeEvent e { s with port := rest } := by
  unfold fetch; rw [h]

/-- The Core's turn while BUSY is the pending command's completion (R171). -/
theorem coreTurn_busy (s : State) (h : s.phase = .busy) :
    coreTurn s = .command (instrOfCode s.pendingCmd s.ie) { s with turn := .core } := by
  unfold coreTurn; rw [h]

theorem coreTurn_idle (s : State) (h : s.phase = .idle) : coreTurn s = .taken s := by
  unfold coreTurn; rw [h]

theorem step_of_command (s s' : State) (i : Instr) (h : fetch s = .command i s') : step s = exec i s' := by
  unfold step; rw [h]

theorem step_of_taken (s s' : State) (h : fetch s = .taken s') : step s = .next s' := by
  unfold step; rw [h]

theorem step_of_fault (s : State) (f : Fault) (h : fetch s = .fault f) : step s = .fault f := by
  unfold step; rw [h]

theorem step_of_refused (s : State) (r : Refusal) (h : fetch s = .refused r) : step s = .refused r := by
  unfold step; rw [h]

/-- A write on the port is a command or is done at once; either way it ends in BusWrite (R61). -/
theorem hostAccess_write (w : BitVec 8) (v : Word) (s : State) :
    (∃ i, decode v = .ok i ∧ w = 2 ∧ hostAccess (.write w v) s = .command i s) ∨
      hostAccess (.write w v) s = .taken (busWrite w v s) := by
  simp only [hostAccess]
  split
  · next i hr hd => exact .inl ⟨i, hd, (regAt_eq_ctrl w).mp hr, rfl⟩
  · exact .inr rfl

/-- A command word written to CTRL runs its command. -/
theorem fetch_command (s : State) (v : Word) (i : Instr) (rest : List Event)
    (h : s.port = .bus (.write 2 v) :: rest) (hd : decode v = .ok i) :
    fetch s = .command i { s with port := rest, turn := .host } := by
  have hr : regAt 2 = .ctrl := by decide
  rw [fetch_cons s _ rest h]
  simp only [takeEvent, hostAccess, hr, hd]

theorem step_read (s : State) (w : BitVec 8) (rest : List Event) (h : s.port = .bus (.read w) :: rest) :
    step s = .next (performRead w { s with port := rest, turn := .host }) :=
  step_of_taken _ _ (by rw [fetch_cons s _ rest h]; rfl)

theorem step_core_busy (s : State) (h : s.phase = .busy) (hp : s.port = []) :
    step s = .next (completeOf (instrOfCode s.pendingCmd s.ie) { s with turn := .core }) := by
  exact (step_of_command s _ _ ((fetch_nil s hp).trans (coreTurn_busy s h))).trans (exec_complete _ _ ⟨rfl, h⟩)

theorem step_core_turn_busy (s : State) (rest : List Event) (h : s.phase = .busy) (hp : s.port = .core :: rest) :
    step s = .next (completeOf (instrOfCode s.pendingCmd s.ie) { s with port := rest, turn := .core }) := by
  exact (step_of_command s _ _ ((fetch_cons s _ rest hp).trans (coreTurn_busy { s with port := rest } h))).trans
    (exec_complete _ _ ⟨rfl, h⟩)

theorem step_core_idle (s : State) (h : s.phase = .idle) (hp : s.port = []) : step s = .next s :=
  step_of_taken _ _ ((fetch_nil s hp).trans (coreTurn_idle s h))

theorem step_core_turn_idle (s : State) (rest : List Event) (h : s.phase = .idle) (hp : s.port = .core :: rest) :
    step s = .next { s with port := rest } :=
  step_of_taken _ _ ((fetch_cons s _ rest hp).trans (coreTurn_idle { s with port := rest } h))

theorem step_reset (s : State) (rest : List Event) (hp : s.port = .reset :: rest) :
    step s = .next (resetBlock { s with port := rest }) :=
  step_of_taken _ _ (fetch_cons s _ rest hp)

end Sys2Proof.Machine
end

