-- ==== Sys2Proof/Laws/Results.lean ====
section
/-! SUPPORT. The truncation and the formatter as numbers, the result registers as bytes, and what each completion is when
its operands are legal. -/

namespace Sys2Proof.Machine

/-! ### Bytes held in registers -/

theorem wordsBytes_be32_20 (D : List Byte) (h : D.length = 20) :
    wordsBytes [be32 D 0, be32 D 4, be32 D 8, be32 D 12, be32 D 16] = D := by
  match D, h with
  | [_, _, _, _, _, _, _, _, _, _, _, _, _, _, _, _, _, _, _, _], _ => simp [wordsBytes, be32, be4_append]

theorem wordsBytes_be32_12 (C : List Byte) (h : C.length = 12) : wordsBytes [be32 C 0, be32 C 4, be32 C 8] = C := by
  match C, h with
  | [_, _, _, _, _, _, _, _, _, _, _, _], _ => simp [wordsBytes, be32, be4_append]

/-- Byte i of a list of words is byte `i mod 4` of word `i / 4` (R34, R38, R42). -/
theorem wordsBytes_get (ws : List Word) (i : Nat) :
    (wordsBytes ws)[i]? = (ws[i / 4]?).bind fun w => (be4 w)[i % 4]? := by
  induction ws generalizing i with
  | nil => simp [wordsBytes]
  | cons w ws ih =>
    have e : wordsBytes (w :: ws) = be4 w ++ wordsBytes ws := by simp [wordsBytes]
    rw [e]
    by_cases h : i < 4
    · rw [List.getElem?_append_left (by simpa using h)]
      have h1 : i / 4 = 0 := by omega
      have h2 : i % 4 = i := by omega
      simp [h1, h2]
    · rw [List.getElem?_append_right (by simpa using h), be4_length, ih]
      obtain ⟨k, rfl⟩ : ∃ k, i = k + 4 := ⟨i - 4, by omega⟩
      simp

theorem be4_be32 (S : List Byte) (i r : Nat) (hr : r < 4) : (be4 (be32 S i))[r]? = some (S.getD (i + r) 0) := by
  unfold be32; rw [be4_append]
  have : r = 0 ∨ r = 1 ∨ r = 2 ∨ r = 3 := by omega
  rcases this with rfl | rfl | rfl | rfl <;> rfl

theorem be32_toNat (D : List Byte) (i : Nat) : (be32 D i).toNat = be32Value D i := by
  have h1 := (D.getD (i + 1) 0).isLt
  have h2 := (D.getD (i + 2) 0).isLt
  have h3 := (D.getD (i + 3) 0).isLt
  simp only [be32, be32Value, BitVec.toNat_append, Nat.shiftLeft_eq]
  rw [Nat.mul_comm _ (2 ^ 8), Nat.mul_comm _ (2 ^ 8), Nat.mul_comm _ (2 ^ 8), ← Nat.two_pow_add_eq_or_of_lt h1,
    ← Nat.two_pow_add_eq_or_of_lt h2, ← Nat.two_pow_add_eq_or_of_lt h3]
  omega

/-! ### Truncation (R140 to R142) -/

theorem truncOffset_toNat (D : List Byte) : (truncOffset D).toNat = offsetOf D := by
  simp [truncOffset, offsetOf, BitVec.extractLsb'_toNat]

theorem truncValue_toNat (D : List Byte) : (truncValue D).toNat = truncatedOf D := by
  rw [truncValue, BitVec.toNat_and, truncOffset_toNat, be32_toNat, truncatedOf]
  exact Nat.and_two_pow_sub_one_eq_mod _ 31

theorem truncatedOf_lt (D : List Byte) : truncatedOf D < 2 ^ 31 := Nat.mod_lt _ (by decide)

theorem reduceCode_eq (D : List Byte) (d : Nat) : reduceCode (truncValue D) d = truncatedOf D % 10 ^ d := by
  rw [reduceCode, truncValue_toNat]

/-! ### Decimal rendering (R14, R143) -/

theorem digit_toNat (x : Nat) : (BitVec.ofNat 8 (0x30 + x % 10)).toNat = 0x30 + x % 10 := by
  simp; omega

theorem dec_digits (n d : Nat) : ∀ b ∈ dec n d, 0x30 ≤ b.toNat ∧ b.toNat ≤ 0x39 := by
  intro b hb
  simp only [dec, List.mem_map] at hb
  obtain ⟨i, -, rfl⟩ := hb
  rw [digit_toNat]; omega

/-- One digit more: the last is `n mod 10`, the rest are those of `n / 10`. -/
theorem dec_succ (n d : Nat) : dec n (d + 1) = dec (n / 10) d ++ [BitVec.ofNat 8 (0x30 + n % 10)] := by
  simp only [dec, List.range_succ, List.map_append, List.map_cons, List.map_nil]
  congr 1
  · apply List.map_congr_left
    intro i hi
    have : d + 1 - 1 - i = (d - 1 - i) + 1 := by have := List.mem_range.mp hi; omega
    rw [this, pow_succ, Nat.mul_comm, Nat.div_div_eq_div_mul]
  · simp

theorem decimalValue_append (a : List Byte) (b : Byte) :
    decimalValue (a ++ [b]) = 10 * decimalValue a + (b.toNat - 0x30) := by
  simp [decimalValue]

theorem decimalValue_dec (d : Nat) : ∀ n, decimalValue (dec n d) = n % 10 ^ d := by
  induction d with
  | zero => intro n; simp [dec, decimalValue, Nat.mod_one]
  | succ d ih =>
    intro n
    rw [dec_succ, decimalValue_append, ih, digit_toNat, pow_succ, Nat.mul_comm (10 ^ d), Nat.mod_mul]
    omega

theorem codeBuffer_length (code d : Nat) (h : d ≤ 10) : (codeBuffer code d).length = 12 := by
  simp [codeBuffer]; omega

/-! ### The result registers -/

theorem storeDigest_bytes (D : List Byte) (s : State) (h : D.length = 20) : (storeDigest D s).digestBytes = D :=
  wordsBytes_be32_20 D h

theorem writeTruncResults_off_toNat (D : List Byte) (d : Nat) (s : State) :
    (writeTruncResults (truncFormat D d) s).truncOff.toNat = offsetOf D := truncOffset_toNat D

theorem writeTruncResults_trunc_toNat (D : List Byte) (d : Nat) (s : State) :
    (writeTruncResults (truncFormat D d) s).trunc.toNat = truncatedOf D := by
  simp only [writeTruncResults_trunc, truncFormat, BitVec.toNat_setWidth, truncValue_toNat]
  exact Nat.mod_eq_of_lt (truncatedOf_lt D)

theorem writeTruncResults_codeVal_toNat (D : List Byte) (d : Nat) (s : State) :
    (writeTruncResults (truncFormat D d) s).codeVal.toNat = truncatedOf D % 10 ^ d := by
  simp only [writeTruncResults_codeVal, truncFormat, reduceCode_eq, BitVec.toNat_ofNat]
  have := truncatedOf_lt D
  have := Nat.mod_le (truncatedOf D) (10 ^ d)
  omega

theorem writeTruncResults_codeChars (D : List Byte) (d : Nat) (s : State) (h : d ≤ 10) :
    (writeTruncResults (truncFormat D d) s).codeChars = codeBuffer (truncatedOf D % 10 ^ d) d := by
  rw [← reduceCode_eq]
  exact wordsBytes_be32_12 _ (codeBuffer_length _ _ h)

/-! ### Completions -/

theorem keyLegal_iff (s : State) : s.keyLegal = true ↔ KeyLenLegal s := by
  unfold State.keyLegal KeyLenLegal; exact decide_eq_true_iff

theorem digitsLegal_iff (s : State) : s.digitsLegal = true ↔ DigitsLegal s := by
  unfold State.digitsLegal DigitsLegal; exact decide_eq_true_iff

theorem completeHmac_ok (s : State) (ie : Bool) (hk : s.keyLegal = true) :
    completeOf (.hmac ie) s = finish errNone (storeDigest s.hmacDigest s) := by
  simp [completeOf, completeHmac, hk]

theorem completeGen_ok (s : State) (ie : Bool) (hk : s.keyLegal = true) (hd : s.digitsLegal = true) :
    completeOf (.gen ie) s =
      finish errNone (writeTruncResults (truncFormat s.hmacDigest s.digitCount) (storeDigest s.hmacDigest s)) := by
  simp [completeOf, completeGen, hk, hd]

theorem completeTrunc_ok (s : State) (ie : Bool) (hd : s.digitsLegal = true) :
    completeOf (.trunc ie) s = finish errNone (writeTruncResults (truncFormat s.digestBytes s.digitCount) s) := by
  simp [completeOf, completeTrunc, hd]

theorem completeOf_port (i : Instr) (s : State) : (completeOf i s).port = s.port := by
  have h := congrArg State.port (completeOf_frame i s); exact h

theorem completeOf_ie (i : Instr) (s : State) : (completeOf i s).ie = s.ie := by
  have h := congrArg State.ie (completeOf_frame i s); exact h

theorem completeOf_wovr (i : Instr) (s : State) : (completeOf i s).wovr = s.wovr := by
  have h := congrArg State.wovr (completeOf_frame i s); exact h

theorem completeOf_rdata (i : Instr) (s : State) : (completeOf i s).rdata = s.rdata := by
  have h := congrArg State.rdata (completeOf_frame i s); exact h

theorem completeOf_draws (i : Instr) (s : State) : (completeOf i s).draws = s.draws := by
  have h := congrArg State.draws (completeOf_frame i s); exact h

/-- Every completion ends with a code of R230. -/
theorem completeOf_errCode_le (i : Instr) (s : State) : (completeOf i s).errCode.toNat ≤ 3 := by
  cases i <;> simp only [completeOf, completeReserved, completeGen, completeHmac, completeTrunc, completeZeroize] <;>
    (repeat' split) <;> simp [CmdError.code, errNone]

/-- A completion reads neither IE, DONE, WOVR, the read output, the draw count, the port nor the turn: it leaves them, or
their fixed values, whatever they are. -/
theorem completeOf_congr (i j : Instr) (hij : i.code = j.code) (s t : State)
    (h : t = { s with ie := t.ie, done := t.done, wovr := t.wovr, rdata := t.rdata, draws := t.draws, port := t.port,
                      turn := t.turn }) :
    completeOf i t = { completeOf j s with
      ie := t.ie, wovr := t.wovr, rdata := t.rdata, draws := t.draws, port := t.port, turn := t.turn } := by
  generalize t.ie = x1 at *
  generalize t.done = x2 at *
  generalize t.wovr = x3 at *
  generalize t.rdata = x4 at *
  generalize t.draws = x5 at *
  generalize t.port = x6 at *
  generalize t.turn = x7 at *
  subst h
  cases i <;> cases j <;> first | (exfalso; revert hij; simp [Instr.code]; done) | skip
  all_goals simp only [completeOf, completeReserved, completeGen, completeHmac, completeTrunc, completeZeroize]
  all_goals try rfl
  · change (if s.keyLegal then (if s.digitsLegal then _ else _) else _) = _
    cases s.keyLegal <;> cases s.digitsLegal <;> rfl
  · change (if s.keyLegal then _ else _) = _
    cases s.keyLegal <;> rfl
  · change (if s.digitsLegal then _ else _) = _
    cases s.digitsLegal <;> rfl

end Sys2Proof.Machine
end

