-- ==== Sys2Proof/Laws/Registers.lean ====
section
/-! SUPPORT. The register map word by word, the words CTRL and STATUS show, where a platform access goes, and what a bus
transaction leaves alone. -/

namespace Sys2Proof.Machine

/-- The map of R23, word by word. -/
theorem regAt_table (w : BitVec 8) : regAt w =
    if w = 0 then .id else if w = 1 then .caps else if w = 2 then .ctrl else if w = 3 then .status
    else if w = 4 then .keyLen else if w = 5 then .digits else if w = 6 then .counterHi else if w = 7 then .counterLo
    else if w = 8 then .trunc else if w = 9 then .truncOff else if w = 10 then .codeVal
    else if w = 12 then .codeChr 0 else if w = 13 then .codeChr 1 else if w = 14 then .codeChr 2
    else if h : 16 ≤ w.toNat ∧ w.toNat < 32 then .key ⟨w.toNat - 16, by omega⟩
    else if h : 32 ≤ w.toNat ∧ w.toNat < 37 then .digest ⟨w.toNat - 32, by omega⟩
    else .reserved := by
  revert w; decide

theorem ctrlWord_eq (s : State) : s.ctrlWord = (if s.ie then 0x100 else 0) + 16 * s.cmd.setWidth 32 := by
  unfold State.ctrlWord bitAt
  generalize s.cmd = c
  generalize s.ie = b
  revert b c; decide

theorem statusWord_eq (s : State) :
    s.statusWord = 16 * s.errCode.setWidth 32 + (if s.wovr then 4 else 0) + (if s.done then 2 else 0) +
      (if s.phase = .busy then 1 else 0) := by
  unfold State.statusWord bitAt State.busy
  generalize s.errCode = c
  generalize s.wovr = b
  generalize s.done = d
  cases s.phase <;> (revert b d c; decide)

/-- DONE and BUSY as a poll sees them. -/
theorem statusWord_low (s : State) :
    s.statusWord &&& 0x3 = (if s.done then 2 else 0) + (if s.phase = .busy then 1 else 0) := by
  rw [statusWord_eq]
  generalize s.errCode = c
  generalize s.wovr = b
  generalize s.done = d
  cases s.phase <;> (revert b d c; decide)

theorem readDraws_idle (w : BitVec 8) (s : State) (h : s.phase = .idle) : readDraws w s = false := by
  unfold readDraws State.busy; rw [h]; rfl

theorem readDraws_status (s : State) : readDraws 3 s = false := by
  unfold readDraws; rw [show regAt 3 = .status from rfl]; simp [Reg.isResult]

theorem busRead_status (s : State) : busRead 3 s = s.statusWord := by
  rw [busRead, readDraws_status]; rfl

/-- A read of STATUS changes the read output only. -/
theorem performRead_status (s : State) : performRead 3 s = { s with rdata := s.statusWord } := by
  unfold performRead; rw [busRead_status, readDraws_status]; rfl

/-- A read while IDLE changes the read output only. -/
theorem performRead_idle (w : BitVec 8) (s : State) (h : s.phase = .idle) :
    performRead w s = { s with rdata := busRead w s } := by
  unfold performRead; rw [readDraws_idle w s h]; rfl

theorem setWidth_eight (v : Word) : v.setWidth 8 = v.extractLsb' 0 8 := by
  ext i hi; simp

theorem statusWrite_eq (v : Word) (s : State) :
    statusWrite v s = { s with done := s.done && !v.getLsbD 1, wovr := s.wovr && !v.getLsbD 2 } := by
  unfold statusWrite; cases v.getLsbD 1 <;> cases v.getLsbD 2 <;> simp

theorem phase_cases (s : State) : s.phase = .idle ∨ s.phase = .busy := by
  cases s.phase <;> simp

/-! ### Platform addresses -/

theorem route_word (w : BitVec 8) : route (Config.base + 4 * w.toNat) 4 = .word w := by
  have := w.isLt
  unfold route
  rw [if_neg (by simp only [Config.windowBytes]; omega), if_pos (by omega)]
  congr
  rw [show Config.base + 4 * w.toNat - Config.base = 4 * w.toNat by omega, Nat.mul_div_cancel_left _ (by decide)]
  simp

theorem route_nonWord (off n : Nat) (ho : off < 0x400) (hn : 1 ≤ n) (h : n ≠ 4 ∨ off % 4 ≠ 0) :
    route (Config.base + off) n = .nonWord := by
  unfold route
  rw [if_neg (by simp only [Config.windowBytes]; omega), if_neg (by omega)]

theorem route_outside (addr n : Nat) (h : addr + n ≤ Config.base ∨ Config.base + 0x400 ≤ addr) :
    route addr n = .outside := by
  unfold route; rw [if_pos (by simpa only [Config.windowBytes] using h)]

/-! ### What a bus write leaves alone -/

theorem busWrite_port (w : BitVec 8) (v : Word) (s : State) : (busWrite w v s).port = s.port := by
  obtain ⟨rfl, e⟩ | ⟨rfl, e⟩ | ⟨-, -, e⟩ := busWrite_cases w v s
  · rw [e]
    obtain hq | hq := phase_cases s
    · rw [ctrlWrite_idle v s hq]; split <;> rfl
    · rw [ctrlWrite_busy v s hq]; split <;> rfl
  · rw [e]; rfl
  · rw [e]
    obtain hq | hq := phase_cases s
    · rw [dataWrite_idle _ v s hq]; cases regAt w <;> rfl
    · rw [dataWrite_busy _ v s hq]; split <;> rfl

/-- A bus write never lets the key buffer into any other field. -/
theorem busWrite_key (w : BitVec 8) (v : Word) (s : State) (k : Vector Word 16) :
    ∃ k', busWrite w v { s with key := k } = { busWrite w v s with key := k' } := by
  obtain ⟨rfl, -⟩ | ⟨rfl, -⟩ | ⟨h2, h3, e⟩ := busWrite_cases w v s
  · refine ⟨k, ?_⟩
    change ctrlWrite v { s with key := k } = { ctrlWrite v s with key := k }
    obtain hq | hq := phase_cases s
    · rw [ctrlWrite_idle v s hq, ctrlWrite_idle v { s with key := k } hq]; split <;> rfl
    · rw [ctrlWrite_busy v s hq, ctrlWrite_busy v { s with key := k } hq]; split <;> rfl
  · exact ⟨k, rfl⟩
  · obtain ⟨h, -⟩ | ⟨h, -⟩ | ⟨-, -, e'⟩ := busWrite_cases w v { s with key := k }
    · exact absurd h h2
    · exact absurd h h3
    rw [e, e']
    obtain hq | hq := phase_cases s
    · rw [dataWrite_idle _ v s hq, dataWrite_idle _ v { s with key := k } hq]
      cases regAt w <;> exact ⟨_, rfl⟩
    · rw [dataWrite_busy _ v s hq, dataWrite_busy _ v { s with key := k } hq]
      split <;> exact ⟨k, rfl⟩

/-- A bus write never sets DONE, and clears it only as a STATUS write with bit 1 or as a start (R30). -/
theorem busWrite_done (w : BitVec 8) (v : Word) (s : State) :
    (busWrite w v s).done = s.done ∨
      (s.done = true ∧ (busWrite w v s).done = false ∧
        ((w = 3 ∧ v.getLsbD 1 = true) ∨
          (w = 2 ∧ v.getLsbD 0 = true ∧ s.phase = .idle ∧ (busWrite w v s).phase = .busy))) := by
  obtain ⟨rfl, e⟩ | ⟨rfl, e⟩ | ⟨-, -, e⟩ := busWrite_cases w v s
  · rw [e]
    obtain hq | hq := phase_cases s
    · rw [ctrlWrite_idle v s hq]
      split
      · next h => cases hd : s.done <;> simp [startBit] at h ⊢; exact ⟨h, hq⟩
      · exact .inl rfl
    · rw [ctrlWrite_busy v s hq]; split <;> exact .inl rfl
  · rw [e]; cases hd : s.done <;> simp [hd]
  · rw [e]
    obtain hq | hq := phase_cases s
    · rw [dataWrite_idle _ v s hq]; exact .inl (congrArg State.done (storeReg_frame (regAt w) v s) : _)
    · rw [dataWrite_busy _ v s hq]; split <;> exact .inl rfl

end Sys2Proof.Machine
end

