-- ==== Sys2Proof/Laws/Step.lean ====
section
/-! SUPPORT. Everything a step can do, said once: each claim about all steps goes through `step_cases`. -/

namespace Sys2Proof.Machine

theorem step_eq_of_fetch (s t : State) (h : fetch s = fetch t) : step s = step t := by
  unfold step; rw [h]

/-- A host write ends in BusWrite, whether it is a command word or not (R61, R63, R64). -/
theorem step_of_hostWrite (s u : State) (w : BitVec 8) (v : Word) (hf : fetch s = hostAccess (.write w v) u)
    (ht : u.turn = .host) : step s = .next (busWrite w v u) := by
  obtain ⟨i, hd, rfl, e⟩ | e := hostAccess_write w v u
  · rw [step_of_command s _ _ (hf.trans e), exec_start _ _ ht, ← ctrlWrite_decode v i _ hd]; rfl
  · exact step_of_taken s _ (hf.trans e)

/-- A step that answers a next state is: a completion of the Core; a turn the Core has no step for; a reset; a read; or a
host write. -/
theorem step_cases (s t : State) (h : step s = .next t) :
    (s.phase = .busy ∧ s.nextIsCore = true ∧
      ∃ p, t = completeOf (instrOfCode s.pendingCmd s.ie) { s with port := p, turn := .core }) ∨
    (s.phase = .idle ∧ s.nextIsCore = true ∧ ∃ p, t = { s with port := p }) ∨
    (s.nextIsReset = true ∧ ∃ p, t = resetBlock { s with port := p }) ∨
    (∃ w p, t = performRead w { s with port := p, turn := .host }) ∨
    (∃ w v p, s.nextWrite = some (w, v) ∧ t = busWrite w v { s with port := p, turn := .host }) := by
  have access : ∀ (a : Access) (p : List Event), fetch s = hostAccess a { s with port := p, turn := .host } →
      (∀ w v, a = .write w v → s.nextWrite = some (w, v)) →
      (∃ w p, t = performRead w { s with port := p, turn := .host }) ∨
        (∃ w v p, s.nextWrite = some (w, v) ∧ t = busWrite w v { s with port := p, turn := .host }) := by
    intro a p hf hw
    cases a with
    | read w => rw [step_of_taken s _ hf] at h; cases h; exact .inl ⟨w, p, rfl⟩
    | write w v =>
      rw [step_of_hostWrite s _ w v hf rfl] at h; cases h
      exact .inr ⟨w, v, p, hw w v rfl, rfl⟩
  cases hp : s.port with
  | nil =>
    have hn : s.nextIsCore = true := by simp [State.nextIsCore, hp]
    obtain hq | hq := phase_cases s
    · rw [step_core_idle s hq hp] at h; cases h; exact .inr (.inl ⟨hq, hn, s.port, rfl⟩)
    · rw [step_core_busy s hq hp] at h; cases h; exact .inl ⟨hq, hn, _, rfl⟩
  | cons e rest =>
    have hf := fetch_cons s e rest hp
    cases e with
    | bus a => exact .inr (.inr (.inr (access a rest hf (by rintro w v rfl; simp [State.nextWrite, hp]))))
    | memRead addr n =>
      simp only [takeEvent, platformAccess] at hf
      cases hr : route addr n with
      | word w => rw [hr] at hf; exact .inr (.inr (.inr (access (.read w) rest hf (by simp))))
      | outside => rw [hr] at hf; rw [step_of_fault s _ hf] at h; cases h
      | nonWord => rw [hr] at hf; rw [step_of_refused s _ hf] at h; cases h
    | memWrite addr n v =>
      simp only [takeEvent, platformAccess] at hf
      cases hr : route addr n with
      | word w =>
        rw [hr] at hf
        exact .inr (.inr (.inr (access (.write w v) rest hf (by simp [State.nextWrite, hp, hr]))))
      | outside => rw [hr] at hf; rw [step_of_fault s _ hf] at h; cases h
      | nonWord => rw [hr] at hf; rw [step_of_refused s _ hf] at h; cases h
    | core =>
      have hn : s.nextIsCore = true := by simp [State.nextIsCore, hp]
      obtain hq | hq := phase_cases s
      · rw [step_core_turn_idle s rest hq hp] at h; cases h; exact .inr (.inl ⟨hq, hn, _, rfl⟩)
      · rw [step_core_turn_busy s rest hq hp] at h; cases h; exact .inl ⟨hq, hn, _, rfl⟩
    | reset =>
      rw [step_reset s rest hp] at h; cases h
      exact .inr (.inr (.inl ⟨by simp [State.nextIsReset, hp], _, rfl⟩))

/-! ### Runs -/

theorem run_succ_next (s t : State) (n : Nat) (h : step s = .next t) : core.run (n + 1) s = core.run n t := by
  have h' : core.step s = .next t := h
  simp only [Host.Core.run, h']

theorem run_one (s t : State) (h : step s = .next t) : core.run 1 s = .next t := run_succ_next s t 0 h

theorem run_two (s t u : State) (h : step s = .next t) (h' : step t = .next u) : core.run 2 s = .next u :=
  (run_succ_next s t 1 h).trans (run_one t u h')

end Sys2Proof.Machine
end

