-- ==== Sys2Proof/Laws/HostScript.lean ====
section
/-! SUPPORT. What each piece of a host script does to the block: a transaction, alone or after the Core's turn, and the
script forms built of it, on an idle block. -/

namespace Sys2Proof.Machine

theorem feed_of_step (e : Event) (s t : State) (h : step { s with port := e :: s.port } = .next t) : feed e s = .ok t := by
  unfold feed; rw [h]

theorem feed_core_idle (s : State) (h : s.phase = .idle) : feed .core s = .ok s :=
  feed_of_step _ _ _ (step_core_turn_idle { s with port := .core :: s.port } s.port h rfl)

theorem feed_core_busy (s : State) (h : s.phase = .busy) :
    feed .core s = .ok (completeOf (instrOfCode s.pendingCmd s.ie) { s with turn := .core }) :=
  feed_of_step _ _ _ (step_core_turn_busy { s with port := .core :: s.port } s.port h rfl)

theorem feed_write (w : BitVec 8) (v : Word) (s : State) :
    feed (.bus (.write w v)) s = .ok (busWrite w v { s with turn := .host }) :=
  feed_of_step _ _ _ (step_of_hostWrite _ _ w v (fetch_cons { s with port := .bus (.write w v) :: s.port } _ s.port rfl) rfl)

theorem feed_read (w : BitVec 8) (s : State) :
    feed (.bus (.read w)) s = .ok (performRead w { s with turn := .host }) :=
  feed_of_step _ _ _ (step_read { s with port := .bus (.read w) :: s.port } w s.port rfl)

/-- While IDLE a turn of the Core before a transaction makes no difference. -/
theorem transact_idle (b : Bool) (a : Access) (s : State) (h : s.phase = .idle) : transact b a s = feed (.bus a) s := by
  unfold transact
  cases b
  · rfl
  · rw [if_pos rfl, feed_core_idle s h]

/-- `WR` on an idle block. -/
theorem run_wr (h : HostRun) (w : BitVec 8) (e : HExpr) (v : BitVec 64) (hi : h.block.phase = .idle)
    (he : e.eval h.vars = .ok v) :
    (Script.wr w e).run h =
      .go { h with block := busWrite w (v.setWidth 32) { h.block with turn := .host }, sched := h.sched.tail } := by
  simp only [Script.run, he, HostRun.issue, transact_idle _ _ _ hi, feed_write]

/-- `RD` on an idle block. -/
theorem run_rd (h : HostRun) (w : BitVec 8) (x : String) (hi : h.block.phase = .idle) :
    (Script.rd w x).run h =
      .go { h with block := { h.block with turn := .host, rdata := busRead w h.block }, sched := h.sched.tail,
                   vars := (x, (busRead w h.block).setWidth 64) :: h.vars } := by
  simp only [Script.run, HostRun.issue, transact_idle _ _ _ hi, feed_read]
  rw [performRead_idle w { h.block with turn := .host } hi]
  rfl

theorem run_seq (a b : Script) (h h' : HostRun) (out : ScriptOut) (ha : a.run h = .go h') (hb : b.run h' = out) :
    (Script.seq a b).run h = out := by
  simp only [Script.run, ha, hb]

theorem run_all_cons (a : Script) (l : List Script) (h h' : HostRun) (out : ScriptOut) (ha : a.run h = .go h')
    (hb : (Script.all l).run h' = out) : (Script.all (a :: l)).run h = out :=
  run_seq a (Script.all l) h h' out ha hb

theorem run_all_append (l m : List Script) (h h' : HostRun) (out : ScriptOut) (hl : (Script.all l).run h = .go h')
    (hm : (Script.all m).run h' = out) : (Script.all (l ++ m)).run h = out := by
  induction l generalizing h with
  | nil => simp only [Script.all, Script.run] at hl; cases hl; exact hm
  | cons a l ih =>
    simp only [List.cons_append, Script.all, Script.run] at hl ⊢
    cases ha : a.run h with
    | go h1 => simp only [ha] at hl ⊢; exact ih h1 hl
    | returned v h1 => simp only [ha] at hl; cases hl
    | stopped r => simp only [ha] at hl; cases hl

end Sys2Proof.Machine
end

