-- ==== Sys2Proof/Laws/PerInstr.lean ====
section
/-! SUPPORT. Per command, the row of the opcode table it stands for (30_encoding.md R82, R83): its canonical word has
`match = (c << 4) | 1` under the mask 0x71, IE at bit 8, and no reserved bit. -/

namespace Sys2Proof.Laws.TableRow

/-- The row's match, mask and IE field, as the command's canonical word shows them. -/
def Statement (i : Instr) : Prop :=
  i.WellFormed = true ∧ encode i &&& 0x71 = (i.code.setWidth 32 <<< 4) ||| 1 ∧ (encode i).getLsbD 8 = i.ie ∧
    WellFormed.word (encode i) = true

theorem reserved0 (ie : Bool) : Statement (.reserved0 ie) := by cases ie <;> unfold Statement <;> decide
theorem gen (ie : Bool) : Statement (.gen ie) := by cases ie <;> unfold Statement <;> decide
theorem hmac (ie : Bool) : Statement (.hmac ie) := by cases ie <;> unfold Statement <;> decide
theorem trunc (ie : Bool) : Statement (.trunc ie) := by cases ie <;> unfold Statement <;> decide
theorem zeroize (ie : Bool) : Statement (.zeroize ie) := by cases ie <;> unfold Statement <;> decide
theorem reserved5 (ie : Bool) : Statement (.reserved5 ie) := by cases ie <;> unfold Statement <;> decide
theorem reserved6 (ie : Bool) : Statement (.reserved6 ie) := by cases ie <;> unfold Statement <;> decide
theorem reserved7 (ie : Bool) : Statement (.reserved7 ie) := by cases ie <;> unfold Statement <;> decide

end Sys2Proof.Laws.TableRow
end

