-- ==== Sys2Proof/Tests/Slice0.lean ====
section
/-! SUPPORT. The model's own tests: expected values are the spec's (95_test_vectors.md and the rules' own words), and for each
statement with hypotheses a witness that meets them together. -/

open Sys2Proof Sys2Proof.Machine

namespace Sys2Proof.Tests

/-! ### Well-formedness: one ill-formed word for each check -/

theorem test_wf_accepts_canonical_words : WellFormed.word 0x11 = true ∧ WellFormed.word 0x171 = true := by decide

theorem test_wf_refuses_start_clear : WellFormed.startSet 0x110 = false ∧ WellFormed.word 0x110 = false := by decide

theorem test_wf_refuses_low_reserved : WellFormed.lowReservedClear 0x13 = false ∧ WellFormed.word 0x13 = false := by decide

theorem test_wf_refuses_mid_reserved : WellFormed.midReservedClear 0x91 = false ∧ WellFormed.word 0x91 = false := by decide

theorem test_wf_refuses_high_reserved :
    WellFormed.highReservedClear 0x211 = false ∧ WellFormed.word 0x80000011 = false := by decide

/-! ### Decoding: words written out from the pattern of R81, `I` at bit 8, `CCC` at bits 6:4, 1 at bit 0 -/

theorem test_decode_reserved0 : decode 0b000000001 = .ok (.reserved0 false) := by decide
theorem test_decode_gen : decode 0b000010001 = .ok (.gen false) := by decide
theorem test_decode_hmac_ie : decode 0b100100001 = .ok (.hmac true) := by decide
theorem test_decode_trunc : decode 0b000110001 = .ok (.trunc false) := by decide
theorem test_decode_zeroize_ie : decode 0b101000001 = .ok (.zeroize true) := by decide
theorem test_decode_reserved5 : decode 0b001010001 = .ok (.reserved5 false) := by decide
theorem test_decode_reserved6 : decode 0b001100001 = .ok (.reserved6 false) := by decide
theorem test_decode_reserved7_ie : decode 0b101110001 = .ok (.reserved7 true) := by decide

/-- Bits 3:1, 7 and 31:9 are ignored (R81). -/
theorem test_decode_ignores_reserved_bits : decode 0xFFFFFEBF = .ok (.trunc false) := by decide

/-- START = 0 is a configuration write (R83). -/
theorem test_decode_configuration :
    decode 0x110 = .error .configurationWrite ∧ decodeCtrl 0x110 = .configuration true 1 := by decide

theorem test_decode_table_word_too_long : decodeTableWord 8 0x111 = none ∧ decodeTableWord 40 0x100000011 = none := by
  decide

/-! ### States of the vectors -/

/-- Key KR of 95_test_vectors.md, loaded, with counter 45187109 and DIGITS = 6. -/
def keyR : State :=
  { State.reset with
    key := #v[0x8F581E94, 0x106DFB44, 0x3ECB0000, 0, 0, 0, 0, 0, 0, 0, 0, 0, 0, 0, 0, 0], keyLen := 10,
    counterLo := 45187109 }

/-- A command of code c in progress, on the Core's turn. -/
def running (c : BitVec 3) (s : State) : State := { s with phase := .busy, pendingCmd := c, cmd := c, turn := .core }

/-- The next state of an outcome. -/
def nextOf : Host.Outcome State Fault Refusal → Option State
  | .next s => some s
  | .fault _ => none
  | .refused _ => none

/-- The 64-byte key of V-HMAC-5, and counter 1. -/
def key64 : State :=
  { State.reset with
    key := #v[0x00010203, 0x04050607, 0x08090A0B, 0x0C0D0E0F, 0x10111213, 0x14151617, 0x18191A1B, 0x1C1D1E1F,
              0x20212223, 0x24252627, 0x28292A2B, 0x2C2D2E2F, 0x30313233, 0x34353637, 0x38393A3B, 0x3C3D3E3F],
    keyLen := 64, counterLo := 1 }

/-- The digest of V-TRUNC-6 (RFC 4226, 5.4). -/
def rfcDigest : State := { State.reset with digest := #v[0x1F869869, 0x0E02CA16, 0x618550EF, 0x7F19DA8E, 0x945B555A] }

/-! ### Hash functions (V-SHA) -/

/-- V-SHA-1, and V-SHA-2. -/
theorem test_sha1_abc : sha1 [0x61, 0x62, 0x63] = wordsBytes [0xA9993E36, 0x4706816A, 0xBA3E2571, 0x7850C26C, 0x9CD0D89D] := by
  decide +kernel

/-- V-SHA-2: the empty string. -/
theorem test_sha1_empty : sha1 [] = wordsBytes [0xDA39A3EE, 0x5E6B4B0D, 0x3255BFEF, 0x95601890, 0xAFD80709] := by
  decide +kernel

/-- V-SHA-4. -/
theorem test_hmac_hi_there :
    hmacSha1 (List.replicate 20 0x0B) [0x48, 0x69, 0x20, 0x54, 0x68, 0x65, 0x72, 0x65] =
      wordsBytes [0xB6173186, 0x55057264, 0xE28BC0B6, 0xFB378C8E, 0xF146BE00] := by decide +kernel

/-! ### The commands -/

/-- L1-1: the source's one fixed result. -/
theorem test_gen_L1_1 :
    nextOf (exec (.gen false) (running 1 keyR)) =
      some { running 1 keyR with
        digest := #v[0xE1DF7FFB, 0x8CEA4677, 0x3D941371, 0x29714FB0, 0xF62EE825], truncOff := 5, trunc := 0x6A46773D,
        codeVal := 2941, codeChr := #v[0x30303239, 0x34310000, 0x00000000], phase := .idle, done := true } := by
  decide +kernel

/-- V-GEN-13, with DIGITS = 6: COUNTER_HI enters the message, and the code keeps its leading zero. -/
theorem test_gen_counter_hi :
    (nextOf (exec (.gen false) (running 1 { keyR with counterHi := 1, counterLo := 0 }))).map (fun t => (t.trunc, t.codeVal)) =
      some (0x2A24C9F5, 54069) := by decide +kernel

/-- V-HMAC-5: KEY_LEN = 64, no zero padding; the other results keep their values. -/
theorem test_hmac_key64 :
    (nextOf (exec (.hmac false) (running 2 { key64 with codeVal := 7 }))).map (fun t => (t.digest, t.codeVal, t.errCode)) =
      some (#v[0x01314B4B, 0x1A29299F, 0x5DEB1EE9, 0x3DA542FD, 0x82BE322A], 7, 0) := by decide +kernel

/-- V-HMAC-9 with V-ERR-11: the largest counter; DIGITS is not looked at. -/
theorem test_hmac_largest_counter :
    (nextOf (exec (.hmac false) (running 2 { keyR with counterHi := 0xFFFFFFFF, counterLo := 0xFFFFFFFF, digits := 11 }))).map
        (fun t => (t.digest, t.statusWord)) =
      some (#v[0xA38FCB57, 0xC31BF3C6, 0xEF984422, 0x0BC0BD43, 0xE0B07CE5], 0x2) := by decide +kernel

/-- V-TRUNC-7, with KEY_LEN = 0: 8 digits. -/
theorem test_trunc_rfc_digest :
    (nextOf (exec (.trunc false) (running 3 { rfcDigest with digits := 8 }))).map
        (fun t => (t.truncOff, t.trunc, t.codeVal, t.codeChr)) =
      some (10, 0x50EF7F19, 57872921, #v[0x35373837, 0x32393231, 0x00000000]) := by decide +kernel

/-- V-TRUNC-4: the largest truncated value and ten digits. -/
theorem test_trunc_largest :
    (nextOf (exec (.trunc false) (running 3 { State.reset with digest := Vector.replicate 5 0xFFFFFFFF, digits := 10 }))).map
        (fun t => (t.truncOff, t.trunc, t.codeVal, t.codeChr)) =
      some (15, 0x7FFFFFFF, 2147483647, #v[0x32313437, 0x34383336, 0x34370000]) := by decide +kernel

/-- V-ZER-1 and V-ZER-4: ZEROIZE clears key and results, keeps COUNTER, DIGITS, IE and WOVR; irq rises. -/
theorem test_zeroize :
    nextOf (exec (.zeroize true) (running 4 { keyR with ie := true, wovr := true, codeVal := 2941, trunc := 5 })) =
      some { running 4 State.reset with counterLo := 0x02B18025, ie := true, wovr := true, phase := .idle, done := true } := by
  decide +kernel

/-- V-ZER-5: on the reset state only STATUS, CTRL and the code of the command change. -/
theorem test_zeroize_reset_state :
    nextOf (exec (.zeroize false) (running 4 State.reset)) =
      some { State.reset with done := true, cmd := 4, pendingCmd := 4, turn := .core } := by decide

/-- V-ERR-5: ERR_CMD outranks ERR_SECRET; nothing else changes. -/
theorem test_reserved5 :
    nextOf (exec (.reserved5 false) (running 5 rfcDigest)) =
      some { rfcDigest with done := true, errCode := 1, cmd := 5, pendingCmd := 5, turn := .core } := by decide

/-- V-ERR-6 and V-ERR-7. -/
theorem test_reserved_others :
    (nextOf (exec (.reserved0 false) (running 0 rfcDigest))).map State.statusWord = some 0x12 ∧
    (nextOf (exec (.reserved6 false) (running 6 rfcDigest))).map State.statusWord = some 0x12 ∧
    (nextOf (exec (.reserved7 false) (running 7 rfcDigest))).map State.statusWord = some 0x12 := by decide

/-- V-ERR-1, V-ERR-2, V-ERR-4 and V-ERR-10: KEY_LEN at 0, 65 and 255, before DIGITS. -/
theorem test_err_secret :
    (nextOf (exec (.gen false) (running 1 rfcDigest))).map State.statusWord = some 0x22 ∧
    (nextOf (exec (.gen false) (running 1 { rfcDigest with keyLen := 65 }))).map State.statusWord = some 0x22 ∧
    (nextOf (exec (.gen false) (running 1 { rfcDigest with digits := 0 }))).map State.statusWord = some 0x22 ∧
    (nextOf (exec (.hmac false) (running 2 { rfcDigest with keyLen := 255 }))).map State.statusWord = some 0x22 := by decide

/-- V-ERR-3, V-ERR-9 and V-TRUNC-14: DIGITS at 0, 255 and 11; the digest is unchanged. -/
theorem test_err_digits :
    (nextOf (exec (.gen false) (running 1 { keyR with digits := 0 }))).map (fun t => (t.statusWord, t.digest)) =
      some (0x32, keyR.digest) ∧
    (nextOf (exec (.gen false) (running 1 { keyR with digits := 255 }))).map State.statusWord = some 0x32 ∧
    (nextOf (exec (.trunc false) (running 3 { rfcDigest with digits := 11 }))).map State.statusWord = some 0x32 := by decide

/-- The first instruction after reset starts its command: BUSY, IE and CMD stored (R170). -/
theorem test_start_after_reset :
    (nextOf (step (State.reset.withFetchWord 32 0x111))).map (fun t => (t.phase, t.ie, t.cmd, t.pendingCmd, t.statusWord)) =
      some (.busy, true, 1, 1, 0x1) := by decide

/-! ### The register port (V-BUS) -/

/-- V-BUS-1: what the reset state shows, at the ends of every range. -/
theorem test_bus_reset_reads :
    (busRead 0 State.reset, busRead 1 State.reset, busRead 2 State.reset, busRead 3 State.reset, busRead 4 State.reset,
      busRead 5 State.reset, busRead 36 State.reset) = (0x4F545031, 0x00000A40, 0, 0, 0, 6, 0) := by decide

/-- V-BUS-2 and V-BUS-4: KEY words read 0; KEY_LEN stores bits 7:0. -/
theorem test_bus_key_reads_zero :
    busRead 16 (busWrite 16 0x8F581E94 State.reset) = 0 ∧ busRead 31 (busWrite 31 0xFFFFFFFF State.reset) = 0 ∧
    busRead 4 (busWrite 4 0x00001234 State.reset) = 0x34 := by decide

/-- R63 at the ends of its ranges: words 7, 16, 31, 32 and 36 store. -/
theorem test_bus_write_ranges :
    (busWrite 7 5 State.reset).counterLo = 5 ∧ (busWrite 16 5 State.reset).key[0] = 5 ∧ (busWrite 31 5 State.reset).key[15] = 5 ∧
    busRead 32 (busWrite 32 5 State.reset) = 5 ∧ busRead 36 (busWrite 36 5 State.reset) = 5 := by decide

/-- V-BUS-3 and V-BUS-5: words 0, 1, 8 to 15, 37 and 255 ignore a write, IDLE or BUSY. -/
theorem test_bus_ignored_writes :
    ∀ w ∈ [0, 1, 8, 9, 10, 11, 12, 13, 14, 15, 37, 200, 255], busWrite w 0xFFFFFFFF keyR = keyR ∧
      busWrite w 0xFFFFFFFF (running 1 keyR) = running 1 keyR := by decide

/-- V-BUS-6: operand writes while BUSY are dropped with WOVR, at the ends of the ranges of R64. -/
theorem test_bus_dropped_writes :
    ∀ w ∈ [4, 5, 6, 7, 16, 31, 32, 36], busWrite w 1 (running 1 keyR) = { running 1 keyR with wovr := true } := by decide

/-- V-BUS-7 and V-BUS-8: a START while BUSY is dropped and IE stored; IE alone sets no WOVR. -/
theorem test_bus_ctrl_busy :
    busWrite 2 0x31 (running 1 { keyR with ie := true }) = { running 1 keyR with ie := false, wovr := true } ∧
    busWrite 2 0x100 (running 1 keyR) = { running 1 keyR with ie := true } := by decide

/-- V-BUS-11, V-BUS-12 and V-BUS-16: the W1C bits of STATUS. -/
theorem test_bus_status_write :
    busRead 3 (busWrite 3 0xFFFFFFFF { keyR with done := true, wovr := true, errCode := 2 }) = 0x20 ∧
    busRead 3 (busWrite 3 0x2 { keyR with done := true, wovr := true }) = 0x4 ∧
    busWrite 3 0x2 (running 1 { keyR with wovr := true }) = running 1 { keyR with wovr := true } := by decide

/-- V-BUS-13 to V-BUS-15: CTRL reads back IE and CMD, START reads 0; a configuration write drops irq and starts nothing. -/
theorem test_bus_ctrl_idle :
    busRead 2 { keyR with ie := true, cmd := 1, done := true } = 0x110 ∧
    (busWrite 2 0x010 { keyR with ie := true, cmd := 1, done := true }) = { keyR with ie := false, cmd := 1, done := true } ∧
    (busWrite 2 0x010 { keyR with ie := true, cmd := 1, done := true }).irq = false := by decide

/-- V-BUS-10: a result register read while BUSY is the open value, and it uses one draw; R62: STATUS is not. -/
theorem test_bus_draw :
    busRead 12 (running 1 keyR) = Config.draw 0 ∧ (performRead 12 (running 1 keyR)).draws = 1 ∧
    busRead 36 (running 1 keyR) = Config.draw 0 ∧ busRead 37 (running 1 keyR) = 0 ∧ busRead 3 (running 1 keyR) = 1 :=
  ⟨rfl, rfl, rfl, rfl, rfl⟩

/-! ### Host procedures -/

/-- The window of L1-4's first row, and R212's wrap at counter 0. -/
theorem test_window : window 1 0 45187109 = [45187108, 45187109] ∧ window 1 0 0 = [0xFFFFFFFFFFFFFFFF, 0] ∧
    window 1 1 45187108 = [45187107, 45187108, 45187109] := by decide

/-- L1-5: `floor(1355613299 / 30)` and one step on. -/
theorem test_clock :
    (Clock.system 30).currentInterval 1355613299 = .ok 45187109 ∧ (Clock.system 30).currentInterval 1355613300 = .ok 45187110 ∧
    (Clock.system 30).currentInterval (-1) = .error .timeRefused := by decide

/-- R201: the default step, and the smallest and largest steps either side of 0. -/
theorem test_clock_construct : (Clock.construct : Except HostError Clock) = .ok (.system 30) ∧
    Clock.construct 1 = .ok (.system 1) ∧ Clock.construct 0 = .error .invalidConfiguration := by decide

/-- The model's order of the checks (log entry 12): a long secret with a bad digit count, and each alone. -/
theorem test_driver_check_order :
    Driver.construct (some (List.replicate 65 1)) 0 (.system 30) false .afterResults = .error .invalidConfiguration ∧
    Driver.construct (some (List.replicate 65 1)) 6 (.system 30) false .afterResults = .error .invalidSecret ∧
    Driver.construct (some []) 0 (.system 30) false .afterResults = .error .invalidSecret := by decide

/-- R202: a test double answers its counter; at a time before the epoch as well (log entry 12). -/
theorem test_clock_double : (Clock.double 7).currentInterval 0 = .ok 7 ∧ (Clock.double 7).currentInterval (-1) = .ok 7 := by decide

/-- The transactions and the block a script's end leaves: DONE, and the words CODE_CHR0 and CODE_VAL read. -/
def endOf (o : AckOrder) (e : BitVec 64) : Option (Bool × Option (BitVec 64) × Option (BitVec 64)) :=
  match (Script.all (resultScripts o)).run ⟨{ State.reset with done := true, codeVal := 0xB7D }, [("e", e)], []⟩ with
  | .go h => some (h.block.done, lookup "c0" h.vars, lookup "val" h.vars)
  | .returned (.num n) h => some (h.block.done, some n, none)
  | _ => none

/-- R206 and R275: with either place of the ACK the results are read and DONE is clear; with an error DONE is clear and no
result is read. -/
theorem test_ack_orders :
    endOf .beforeResults 0 = some (false, some 0, some 0xB7D) ∧ endOf .afterResults 0 = some (false, some 0, some 0xB7D) ∧
    endOf .beforeResults 2 = some (false, some 2, none) ∧ endOf .afterResults 2 = some (false, some 2, none) := by decide

/-- The expansion of `SETCTR` (R89) from a 64-bit counter. -/
theorem test_setctr :
    (match (setCtr (.lit 0x100000002)).run ⟨State.reset, [], []⟩ with
      | .go h => some (h.block.counterHi, h.block.counterLo)
      | _ => none) = some (1, 2) := by decide

/-! ### Witnesses: for each statement with hypotheses, operands and a state that meet them together -/

/-- A command in progress on the Core's turn, with a legal key and digit count. -/
def busy1 : State := running 1 keyR

theorem test_busy1_due : CompletionDue busy1 ∧ KeyLenLegal busy1 ∧ DigitsLegal busy1 :=
  ⟨⟨rfl, rfl⟩, ⟨by decide, by decide⟩, by decide, by decide⟩

theorem test_witness_ResetSetsEveryRegister : ({ busy1 with port := [.reset, .core] } : State).port = .reset :: [.core] := rfl

theorem test_witness_ResetKeepsTheInputs :
    ({ busy1 with port := [.reset], rdata := 7, draws := 3 } : State).port = .reset :: [] := rfl

theorem test_witness_ResetAbandonsTheCommand :
    ({ busy1 with port := [.reset, .core, .core] } : State).phase = .busy ∧
    ({ busy1 with port := [.reset, .core, .core] } : State).port = .reset :: List.replicate 2 .core := ⟨rfl, rfl⟩

theorem test_witness_DecodeOfEncodeIsTheCommand :
    (Instr.gen true).WellFormed = true ∧ (Instr.reserved7 false).WellFormed = true := by decide

theorem test_witness_EveryCtrlValueDecodes : (0x110 : Word).getLsbD 0 = false ∧ (0x111 : Word).getLsbD 0 = true := by decide

theorem test_witness_StepRunsTheWrittenCommand :
    ({ keyR with port := [.bus (.write 2 0x113), .core] } : State).port = .bus (.write 2 0x113) :: [.core] ∧
    decode 0x113 = .ok (.gen true) := by decide

theorem test_witness_StepRunsThePendingCommand :
    ({ busy1 with port := [.core] } : State).port = .core :: [] ∧ ({ busy1 with port := [.core] } : State).phase = .busy ∧
    ({ keyR with port := [.core] } : State).port = .core :: [] ∧ ({ keyR with port := [.core] } : State).phase = .idle := by
  decide

theorem test_witness_StepRunsThePlacedWord :
    decodeTableWord 32 0x171 = some (.reserved7 true) ∧ decodeTableWord 32 0x01 = some (.reserved0 false) := by decide

theorem test_witness_WriteStepIsBusWrite :
    ({ keyR with port := [.bus (.write 36 1)] } : State).port = .bus (.write 36 1) :: [] := rfl

theorem test_witness_ReadStepReturnsBusRead :
    ({ busy1 with port := [.bus (.read 12)] } : State).port = .bus (.read 12) :: [] := rfl

theorem test_witness_OnlyPlatformAccessStops :
    ∀ e rest, ({ busy1 with port := [.bus (.write 4 1), .memRead 1 1] } : State).port = e :: rest → e.isPlatform = false := by
  rintro e rest h; cases h; rfl

/-- Each clause: word 255 read and written; the last byte of the window; the first address past it. -/
theorem test_witness_PlatformAccessIsOneWord :
    ({ keyR with port := [.memRead (Config.base + 4 * (255 : BitVec 8).toNat) 4] } : State).port =
      .memRead (Config.base + 4 * (255 : BitVec 8).toNat) 4 :: [] ∧
    ({ keyR with port := [.memWrite (Config.base + 4 * (255 : BitVec 8).toNat) 4 1] } : State).port =
      .memWrite (Config.base + 4 * (255 : BitVec 8).toNat) 4 1 :: [] ∧
    (0x3FF < 0x400 ∧ 1 ≤ 1 ∧ (1 ≠ 4 ∨ 0x3FF % 4 ≠ 0) ∧
      ({ keyR with port := [.memRead (Config.base + 0x3FF) 1] } : State).port = .memRead (Config.base + 0x3FF) 1 :: []) ∧
    ((Config.base + 0x400) + 4 ≤ Config.base ∨ Config.base + 0x400 ≤ Config.base + 0x400) ∧
      ({ keyR with port := [.memWrite (Config.base + 0x400) 4 1] } : State).port = .memWrite (Config.base + 0x400) 4 1 :: [] :=
  ⟨rfl, rfl, ⟨by decide, by decide, by decide, rfl⟩, .inr (Nat.le_refl _), rfl⟩

/-- The clauses of the read at the ends of their ranges: 14, 16, 31, 32, 36, 37, IDLE. -/
theorem test_clauses_BusReadGivesEachWord :
    busRead 14 { keyR with codeChr := #v[1, 2, 3] } = 3 ∧ busRead 15 keyR = 0 ∧ busRead 16 keyR = 0 ∧ busRead 31 keyR = 0 ∧
    busRead 32 { keyR with digest := #v[1, 2, 3, 4, 5] } = 1 ∧ busRead 36 { keyR with digest := #v[1, 2, 3, 4, 5] } = 5 ∧
    busRead 37 keyR = 0 := by decide

theorem test_witness_BusWriteWhileIdle : keyR.phase = .idle := rfl

theorem test_witness_BusWriteWhileBusy : busy1.phase = .busy := rfl

theorem test_witness_BusyHoldsOperands :
    ({ busy1 with port := [.bus (.write 16 1)] } : State).phase = .busy ∧
    ({ busy1 with port := [.bus (.write 16 1)] } : State).port = .bus (.write 16 1) :: [] := ⟨rfl, rfl⟩

theorem test_witness_StartMakesTheCoreBusy :
    StartDue keyR ∧ ({ busy1 with turn := .host } : State).turn = .host ∧ ({ busy1 with turn := .host } : State).phase = .busy :=
  ⟨⟨rfl, rfl⟩, rfl, rfl⟩

/-- KEY_LEN at both ends of its legal range. -/
theorem test_witness_HmacWritesTheDigest :
    (CompletionDue (running 2 key64) ∧ KeyLenLegal (running 2 key64)) ∧
    CompletionDue (running 2 { key64 with keyLen := 1 }) ∧ KeyLenLegal (running 2 { key64 with keyLen := 1 }) :=
  ⟨⟨⟨rfl, rfl⟩, by decide, by decide⟩, ⟨rfl, rfl⟩, by decide, by decide⟩

/-- DIGITS at both ends of its legal range. -/
theorem test_witness_GenWritesDigestAndCode :
    (CompletionDue (running 1 { key64 with digits := 1 }) ∧ KeyLenLegal (running 1 { key64 with digits := 1 }) ∧
      DigitsLegal (running 1 { key64 with digits := 1 })) ∧
    CompletionDue (running 1 { key64 with digits := 10 }) ∧ KeyLenLegal (running 1 { key64 with digits := 10 }) ∧
      DigitsLegal (running 1 { key64 with digits := 10 }) :=
  ⟨⟨⟨rfl, rfl⟩, ⟨by decide, by decide⟩, by decide, by decide⟩, ⟨rfl, rfl⟩, ⟨by decide, by decide⟩, by decide, by decide⟩

theorem test_witness_TruncWritesTheCode :
    CompletionDue (running 3 { rfcDigest with digits := 10 }) ∧ DigitsLegal (running 3 { rfcDigest with digits := 10 }) :=
  ⟨⟨rfl, rfl⟩, by decide, by decide⟩

theorem test_witness_ZeroizeClearsKeyAndResults : CompletionDue (running 4 keyR) := ⟨rfl, rfl⟩

theorem test_witness_ReservedCompletesWithErrCmd : CompletionDue (running 5 keyR) := ⟨rfl, rfl⟩

/-- KEY_LEN just outside its legal range, on both sides. -/
theorem test_witness_IllegalKeyLenRaisesErrSecret :
    (CompletionDue (running 1 { keyR with keyLen := 0 }) ∧
      ((running 1 { keyR with keyLen := 0 }).keyLen.toNat = 0 ∨ 64 < (running 1 { keyR with keyLen := 0 }).keyLen.toNat)) ∧
    CompletionDue (running 1 { keyR with keyLen := 65 }) ∧
      ((running 1 { keyR with keyLen := 65 }).keyLen.toNat = 0 ∨ 64 < (running 1 { keyR with keyLen := 65 }).keyLen.toNat) :=
  ⟨⟨⟨rfl, rfl⟩, by decide⟩, ⟨rfl, rfl⟩, by decide⟩

/-- DIGITS just outside its legal range, on both sides. -/
theorem test_witness_IllegalDigitsRaisesErrDigits :
    (CompletionDue (running 1 { keyR with digits := 0 }) ∧ KeyLenLegal (running 1 { keyR with digits := 0 }) ∧
      ((running 1 { keyR with digits := 0 }).digits.toNat = 0 ∨ 10 < (running 1 { keyR with digits := 0 }).digits.toNat)) ∧
    CompletionDue (running 1 { keyR with digits := 11 }) ∧ KeyLenLegal (running 1 { keyR with digits := 11 }) ∧
      ((running 1 { keyR with digits := 11 }).digits.toNat = 0 ∨ 10 < (running 1 { keyR with digits := 11 }).digits.toNat) :=
  ⟨⟨⟨rfl, rfl⟩, ⟨by decide, by decide⟩, by decide⟩, ⟨rfl, rfl⟩, ⟨by decide, by decide⟩, by decide⟩

theorem test_witness_ErrorPriorityIsFixed : CompletionDue (running 1 { keyR with keyLen := 0, digits := 0 }) := ⟨rfl, rfl⟩

/-- An error completion, alone and after its start. -/
theorem test_witness_ErrorsArePrecise :
    (CompletionDue (running 5 keyR) ∧ (nextOf (exec (.reserved5 false) (running 5 keyR))).map State.errCode = some 1) ∧
    keyR.phase = .idle ∧ decode 0x51 = .ok (.reserved5 false) ∧
      (nextOf (core.run 2 { keyR with port := [.bus (.write 2 0x51), .core] })).map State.errCode = some 1 :=
  ⟨⟨⟨rfl, rfl⟩, by decide⟩, rfl, by decide, by decide⟩

theorem test_witness_AfterZeroizeNoKeyIsLeft :
    CompletionDue (running 4 keyR) ∧
    exec (.zeroize false) (running 4 keyR) = .next (completeZeroize (running 4 keyR)) ∧ DigitsLegal (running 4 keyR) :=
  ⟨⟨rfl, rfl⟩, rfl, by decide, by decide⟩

theorem test_witness_GenEqualsHmacThenTrunc : keyR.phase = .idle ∧ KeyLenLegal keyR ∧ DigitsLegal keyR :=
  ⟨rfl, ⟨by decide, by decide⟩, by decide, by decide⟩

/-- Keys of both extreme lengths. -/
theorem test_witness_HmacHashesTwoPaddedMessages :
    (List.replicate 64 (1 : Byte)).length ≤ 64 ∧ ([] : List Byte).length ≤ 64 ∧ (beBytes8 45187109).length = 8 := by decide

/-- Two states that agree on the secret, the counter and the digit count, and differ in a key byte past KEY_LEN (V-GEN-24), in
the digest and in IE. -/
theorem test_witness_ResultsDependOnOperandsOnly :
    let s := busy1
    let s' : State := { busy1 with key := busy1.key.set 2 0x3ECBFFFF, ie := true, codeVal := 9 }
    CompletionDue s ∧ CompletionDue s' ∧ KeyLenLegal s ∧ s'.keyLen = s.keyLen ∧
      (∀ i, i < s.keyLen.toNat → s'.keyBytes[i]? = s.keyBytes[i]?) ∧ s'.counterHi = s.counterHi ∧
      s'.counterLo = s.counterLo ∧ DigitsLegal s ∧ s'.digits = s.digits ∧ s'.keyBytes ≠ s.keyBytes :=
  ⟨⟨rfl, rfl⟩, ⟨rfl, rfl⟩, ⟨by decide, by decide⟩, rfl, by decide, rfl, rfl, ⟨by decide, by decide⟩, rfl, by decide⟩

/-- V-TRUNC-12: only the high half of byte 19 differs. -/
theorem test_witness_TruncationReadsFourBytes :
    rfcDigest.digestBytes.length = 20 ∧ (0xFA : Byte).toNat % 16 = (rfcDigest.digestBytes.getD 19 0).toNat % 16 := by decide

theorem test_witness_CodeIsDecimalOfFixedLength : (1 ≤ 1 ∧ 1 ≤ 10) ∧ 1 ≤ 10 ∧ 10 ≤ 10 := by decide

/-- DONE set by a completion; and cleared by a STATUS write, by a start, and by a reset. -/
theorem test_witness_DoneChangesOnlyAsStated :
    (nextOf (step { running 5 keyR with port := [.core] })).map State.done = some true ∧ (running 5 keyR).done = false ∧
    (nextOf (step { keyR with done := true, port := [.bus (.write 3 0x2)] })).map State.done = some false ∧
    (nextOf (step { keyR with done := true, port := [.bus (.write 2 0x11)] })).map State.done = some false ∧
    (nextOf (step { keyR with done := true, port := [.reset] })).map State.done = some false := by decide

/-- WOVR set by each kind of dropped write, the ends of the ranges among them; and cleared by a STATUS write and a reset. -/
theorem test_witness_WovrIsSticky :
    (∀ w ∈ [4, 7, 16, 36], (nextOf (step { busy1 with port := [.bus (.write w 0)] })).map State.wovr = some true ∧
      ({ busy1 with port := [.bus (.write w 0)] } : State).nextWrite = some (w, 0)) ∧ busy1.wovr = false ∧
    (nextOf (step { busy1 with port := [.bus (.write 2 1)] })).map State.wovr = some true ∧
    (nextOf (step { keyR with wovr := true, port := [.bus (.write 3 0x4)] })).map State.wovr = some false ∧
    (nextOf (step { keyR with wovr := true, port := [.reset] })).map State.wovr = some false := by decide

/-- ERR_CODE changed by a completion, by a start and by a reset, and held while BUSY. -/
theorem test_witness_ErrCodeChangesOnlyAsStated :
    (nextOf (step { running 5 keyR with port := [.core] })).map State.errCode = some 1 ∧ (running 5 keyR).errCode = 0 ∧
    (nextOf (step { keyR with errCode := 2, port := [.bus (.write 2 0x11)] })).map (fun t => (t.phase, t.errCode)) =
      some (.busy, 0) ∧
    (nextOf (step { keyR with errCode := 2, port := [.reset] })).map State.errCode = some 0 ∧
    (nextOf (step { busy1 with port := [.bus (.read 3)] })).map State.phase = some .busy := by decide

theorem test_witness_CompletionRaisesIrq : CompletionDue { busy1 with ie := true } := ⟨rfl, rfl⟩

theorem test_witness_IrqFollowsIe :
    ({ keyR with done := true, port := [.bus (.write 2 0x100)] } : State).port = .bus (.write 2 0x100) :: [] ∧
    (0x100 : Word).getLsbD 0 = false ∧ busy1.phase = .busy := by decide

/-- Reset meets the invariant, and so does a command in progress. -/
theorem test_reset_inv : Inv State.reset :=
  ⟨by decide, by decide, by decide, by decide, 0, by decide, by decide, by decide⟩

theorem test_busy1_inv : Inv busy1 := ⟨by decide, by decide, by decide, by decide, 0, by decide, by decide, by decide⟩

/-- A write at each end of each range of operand words. -/
theorem test_witness_SimultaneousEventsInEitherOrder :
    Inv busy1 ∧ busy1.phase = .busy ∧
    ∀ w ∈ ([4, 7, 16, 36] : List (BitVec 8)), 4 ≤ w.toNat ∧ w.toNat ≤ 7 ∨ 16 ≤ w.toNat ∧ w.toNat ≤ 36 :=
  ⟨test_busy1_inv, rfl, by decide⟩

theorem test_witness_ResultIsAsIfSampledAtStart : busy1.phase = .busy ∧ [Access.read 3, .write 7 1, .write 2 0x31].length = 3 :=
  ⟨rfl, rfl⟩

theorem test_witness_BusyCommandCompletes :
    ({ busy1 with port := [Access.read 3, .write 7 1].map .bus } : State).phase = .busy ∧
    ({ busy1 with port := [Access.read 3, .write 7 1].map .bus } : State).port = [Access.read 3, .write 7 1].map .bus :=
  ⟨rfl, rfl⟩

theorem test_witness_IdleCoreKeepsItsState : RunOver keyR := ⟨rfl, rfl⟩

theorem test_witness_StepKeepsInv :
    Inv busy1 ∧ step busy1 = .next (completeGen { busy1 with turn := .core }) := ⟨test_busy1_inv, rfl⟩

/-- Two states that differ in the key buffer, and a run of reads and writes that starts a command. -/
theorem test_witness_KeyBytesCannotBeReadBack :
    SameButKey { keyR with port := [Access.read 16, .write 17 5, .write 2 0x11].map .bus }
      { keyR with key := Vector.replicate 16 0, port := [Access.read 16, .write 17 5, .write 2 0x11].map .bus } ∧
    16 ≤ (31 : BitVec 8).toNat ∧ (31 : BitVec 8).toNat < 32 := ⟨rfl, by decide, by decide⟩

/-! Witnesses of the host procedures. -/

/-- The driver of the vectors: key KR, 6 digits, a step of 30 seconds. -/
def driverKR : Driver :=
  { secret := [0x8F, 0x58, 0x1E, 0x94, 0x10, 0x6D, 0xFB, 0x44, 0x3E, 0xCB], digits := 6, clock := .system 30,
    ackOrder := .afterResults }

theorem test_driverKR_valid : driverKR.Valid := ⟨by decide, by decide, by decide, by decide⟩

/-- A host with the block after reset, whose first two polls come before the completion. -/
def freshHost : HostRun := { block := State.reset, vars := [], sched := [true, false, false] }

theorem test_witness_ClockCountsWholeSteps :
    (0 : Int) ≤ 0 ∧ 0 < 30 ∧ 1355613299 / 30 < 2 ^ 64 ∧ Clock.system 30 = .system 30 ∧ (-1 : Int) < 0 := by decide

/-- The ends of the driver's ranges. -/
theorem test_witness_DriverChecksAtConstruction :
    ([1] : List Byte) ≠ [] ∧ (0 : Int) < 1 ∧ (List.replicate 64 (1 : Byte)).length ≤ 64 ∧ (1 : Int) ≤ 1 ∧ (10 : Int) ≤ 10 ∧
    Driver.construct (some driverKR.secret) 6 (.system 30) false .afterResults = .ok driverKR := by decide

theorem test_witness_WindowHoldsItsCounters :
    -((1 : Nat) : Int) ≤ -1 ∧ (-1 : Int) ≤ ((0 : Nat) : Int) ∧
    ((0xFFFFFFFFFFFFFFFF : BitVec 64).toNat : Int) = (((0 : BitVec 64).toNat : Int) + -1) % 2 ^ 64 := by decide

/-- Secrets of both extreme lengths. -/
theorem test_witness_LoadKeyMakesTheSecret :
    (1 ≤ ([7] : List Byte).length ∧ ([7] : List Byte).length ≤ 64) ∧
    (1 ≤ (List.replicate 64 (7 : Byte)).length ∧ (List.replicate 64 (7 : Byte)).length ≤ 64) ∧ freshHost.block.phase = .idle := by
  decide

theorem test_witness_GenerateReturnsTheCode : driverKR.Valid ∧ freshHost.block.phase = .idle := ⟨test_driverKR_valid, rfl⟩

theorem test_witness_VerifyAcceptsExactlyTheWindow :
    driverKR.Valid ∧ freshHost.block.phase = .idle ∧ driverKR.clock.currentInterval 1355613309 = .ok 45187110 :=
  ⟨test_driverKR_valid, rfl, by decide⟩

/-- With the counter of the clock 0 and 1 past the code's (L1-6), and two past it (L1-5). -/
theorem test_witness_AcceptanceInCounterTerms :
    driverKR.Valid ∧ driverKR.lookback = 1 ∧ driverKR.lookahead = 0 ∧ freshHost.block.phase = .idle ∧
    driverKR.clock.currentInterval 1355613299 = .ok 45187109 ∧ driverKR.clock.currentInterval 1355613309 = .ok 45187110 ∧
    driverKR.clock.currentInterval 1355613330 = .ok 45187111 := ⟨test_driverKR_valid, by decide⟩

/-- L1-5 and L1-6: one second before a boundary, and 30, 31 and 61 seconds on. -/
theorem test_witness_AcceptanceInTimeTerms :
    driverKR.Valid ∧ driverKR.lookback = 1 ∧ driverKR.lookahead = 0 ∧ driverKR.clock = .system 30 ∧
    1355613299 % 30 = 29 ∧ 1355613299 ≤ 1355613329 ∧ 1355613329 - 1355613299 ≤ 30 ∧ 31 ≤ 1355613330 - 1355613299 ∧
    1355613360 - 1355613299 ≤ 61 ∧ 1355613360 / 30 < 2 ^ 64 ∧ freshHost.block.phase = .idle :=
  ⟨test_driverKR_valid, by decide⟩

end Sys2Proof.Tests
end

section
/-! Platform accesses: which transaction, refusal or fault a `MemRead` or `MemWrite` at the head of the port comes to. -/

namespace Sys2Proof.Machine

theorem platformAccess_of_word (addr n : Nat) (access : BitVec 8 → Access) (s : State) (w : BitVec 8)
    (h : route addr n = .word w) : platformAccess addr n access s = hostAccess (access w) s := by
  rw [platformAccess, h]

theorem platformAccess_of_nonWord (addr n : Nat) (access : BitVec 8 → Access) (s : State)
    (h : route addr n = .nonWord) : platformAccess addr n access s = .refused (.nonWordAccess addr n) := by
  rw [platformAccess, h]

theorem platformAccess_of_outside (addr n : Nat) (access : BitVec 8 → Access) (s : State)
    (h : route addr n = .outside) : platformAccess addr n access s = .fault (.outsideWindow addr) := by
  rw [platformAccess, h]

/-- A platform read or write is fetched by `platformAccess`, which differs between the two in the transaction alone. -/
theorem fetch_memAccess (s : State) (addr n : Nat) (v : Word) (rest : List Event)
    (h : s.port = .memRead addr n :: rest ∨ s.port = .memWrite addr n v :: rest) :
    ∃ access, fetch s = platformAccess addr n access { s with port := rest, turn := .host } := by
  obtain h | h := h
  · exact ⟨_, fetch_cons s _ rest h⟩
  · exact ⟨_, fetch_cons s _ rest h⟩

/-- A platform event that is taken as a bus transaction steps as that transaction. -/
theorem step_eq_bus_of_takeEvent (s : State) (e : Event) (a : Access) (rest : List Event) (hp : s.port = e :: rest)
    (h : ∀ u, takeEvent e u = takeEvent (.bus a) u) : step s = step { s with port := .bus a :: rest } :=
  step_eq_of_fetch s _ <| calc
    fetch s = takeEvent e { s with port := rest } := fetch_cons s e rest hp
    _ = takeEvent (.bus a) { s with port := rest } := h _
    _ = fetch { s with port := .bus a :: rest } := (fetch_cons { s with port := .bus a :: rest } _ rest rfl).symm

/-- Settles O14: `route` sends the access to its word, to a refusal or outside, and the step follows it. -/
theorem platformAccessIsOneWord : Obligations.PlatformAccessIsOneWord := by
  unfold Obligations.PlatformAccessIsOneWord
  refine ⟨fun s w rest hp => ?read, fun s w v rest hp => ?write, fun s off n v rest hoff hn hne hp => ?nonWord,
    fun s addr n v rest hout hp => ?outside⟩
  case read =>
    exact step_eq_bus_of_takeEvent s _ (.read w) rest hp fun _ => platformAccess_of_word _ _ _ _ w (route_word w)
  case write =>
    exact step_eq_bus_of_takeEvent s _ (.write w v) rest hp fun _ => platformAccess_of_word _ _ _ _ w (route_word w)
  case nonWord =>
    obtain ⟨access, hf⟩ := fetch_memAccess s _ n v rest hp
    exact step_of_refused s _ (hf.trans (platformAccess_of_nonWord _ n access _ (route_nonWord off n hoff hn hne)))
  case outside =>
    obtain ⟨access, hf⟩ := fetch_memAccess s addr n v rest hp
    exact step_of_fault s _ (hf.trans (platformAccess_of_outside addr n access _ (route_outside addr n hout)))

end Sys2Proof.Machine
end

section
/-! Bus transactions from two states that differ in the key buffer alone: a read shows neither the difference nor what
depends on it, and a write keeps it inside the key buffer (10_state.md R35). -/

namespace Sys2Proof.Machine

/-! ### One bus transaction -/

/-- The state a bus transaction leaves (20_memory.md R61). -/
def serve : Access → State → State
  | .read w => performRead w
  | .write w v => busWrite w v

theorem step_bus (s : State) (a : Access) (rest : List Event) (h : s.port = .bus a :: rest) :
    step s = .next (serve a { s with port := rest, turn := .host }) := by
  cases a with
  | read w => exact step_read s w rest h
  | write w v => exact step_of_hostWrite s _ w v (fetch_cons s _ rest h) rfl

@[simp] theorem serve_port (a : Access) (s : State) : (serve a s).port = s.port := by
  cases a with
  | read w => rfl
  | write w v => exact busWrite_port w v s

/-! ### The key buffer in one transaction -/

theorem regAt_key (w : BitVec 8) (hlo : 16 ≤ w.toNat) (hhi : w.toNat < 32) : ∃ j, regAt w = .key j := by
  revert w; decide

/-- A KEY word reads 0, BUSY or not (R35). -/
theorem busRead_key (s : State) (w : BitVec 8) (hlo : 16 ≤ w.toNat) (hhi : w.toNat < 32) : busRead w s = 0 := by
  obtain ⟨j, hj⟩ := regAt_key w hlo hhi
  simp [busRead, readDraws, hj, Reg.isResult, State.readReg]

/-- No register reads differently for another key. -/
theorem readReg_setKey (r : Reg) (s : State) (k : Vector Word 16) : { s with key := k }.readReg r = s.readReg r := by
  cases r <;> rfl

theorem busRead_setKey (w : BitVec 8) (s : State) (k : Vector Word 16) : busRead w { s with key := k } = busRead w s := by
  unfold busRead
  rw [readReg_setKey]
  rfl

theorem performRead_setKey (w : BitVec 8) (s : State) (k : Vector Word 16) :
    performRead w { s with key := k } = { performRead w s with key := k } := by
  unfold performRead
  rw [busRead_setKey]
  rfl

/-- A bus transaction lets the key buffer into no other field; a write may store a word in it. -/
theorem serve_setKey (a : Access) (s : State) (k : Vector Word 16) :
    ∃ k', serve a { s with key := k } = { serve a s with key := k' } := by
  cases a with
  | read w => exact ⟨k, performRead_setKey w s k⟩
  | write w v => exact busWrite_key w v s k

/-! ### Two runs -/

theorem sameButKey_setKey (s : State) (k : Vector Word 16) : SameButKey s { s with key := k } := rfl

theorem SameButKey.eq_setKey {s s' : State} (h : SameButKey s s') : s' = { s with key := s'.key } := h.symm

theorem SameButKey.port_eq {s s' : State} (h : SameButKey s s') : s'.port = s.port :=
  (congrArg State.port h.eq_setKey :)

theorem SameButKey.rdata_eq {s s' : State} (h : SameButKey s s') : s.rdata = s'.rdata :=
  (congrArg State.rdata h.eq_setKey :).symm

/-- A bus transaction keeps two states that differ in the key buffer alone so. -/
theorem SameButKey.serve_both {s s' : State} (h : SameButKey s s') (a : Access) :
    SameButKey (serve a s) (serve a s') := by
  obtain ⟨k, hk⟩ := serve_setKey a s s'.key
  rw [h.eq_setKey, hk]
  exact sameButKey_setKey _ k

theorem SameButKey.host_turn {s s' : State} (h : SameButKey s s') (p : List Event) :
    SameButKey { s with port := p, turn := .host } { s' with port := p, turn := .host } := by
  rw [h.eq_setKey]; rfl

/-- The two-run invariant, by induction over the transactions. -/
theorem run_bus_sameButKey (accesses : List Access) (s s' : State) (h : SameButKey s s')
    (hp : s.port = accesses.map .bus) :
    ∃ t t', core.run accesses.length s = .next t ∧ core.run accesses.length s' = .next t' ∧ SameButKey t t' := by
  induction accesses generalizing s s' with
  | nil => exact ⟨s, s', rfl, rfl, h⟩
  | cons a rest ih =>
    have hs := step_bus s a (rest.map .bus) hp
    have hs' := step_bus s' a (rest.map .bus) (h.port_eq.trans hp)
    obtain ⟨t, t', ht, ht', hk⟩ := ih _ _ ((h.host_turn (rest.map .bus)).serve_both a) (serve_port _ _)
    exact ⟨t, t', (run_succ_next s _ _ hs).trans ht, (run_succ_next s' _ _ hs').trans ht', hk⟩

/-- Settles O48: KEY words read 0, and bus transactions keep the two runs' difference inside the key buffer. -/
theorem keyBytesCannotBeReadBack : Obligations.KeyBytesCannotBeReadBack := by
  refine ⟨busRead_key, fun accesses s s' h hp => ?_⟩
  obtain ⟨t, t', ht, ht', hk⟩ := run_bus_sameButKey accesses s s' h hp
  exact ⟨t, t', ht, ht', hk.rdata_eq, hk⟩

end Sys2Proof.Machine
end

section
/-! The fields STATUS is read from, over every step: one inversion lemma for a bus write and one for a step, from which
the rules of DONE, WOVR and ERR_CODE follow (10_state.md R30 to R32). -/

namespace Sys2Proof.Machine

/-- The fields STATUS is read from, PHASE, DONE, WOVR and ERR_CODE (R28), hold these values. -/
structure HasStatus (s : State) (p : Phase) (d o : Bool) (e : BitVec 4) : Prop where
  phase : s.phase = p
  done : s.done = d
  wovr : s.wovr = o
  errCode : s.errCode = e

/-- The writes that a BUSY core drops (R64): a CTRL write with START, and an operand register's write. -/
def DropsWhileBusy (w : BitVec 8) (v : Word) : Prop :=
  w = 2 ∧ v.getLsbD 0 = true ∨ 4 ≤ w.toNat ∧ w.toNat ≤ 7 ∨ 16 ≤ w.toNat ∧ w.toNat ≤ 36

/-! ### A bus write -/

theorem storeReg_status (r : Reg) (v : Word) (s : State) :
    HasStatus (storeReg r v s) s.phase s.done s.wovr s.errCode := by
  cases r <;> exact ⟨rfl, rfl, rfl, rfl⟩

/-- What a bus write does to the STATUS fields: it starts a command, is dropped, is a STATUS write, or leaves them. -/
theorem busWrite_status_cases (w : BitVec 8) (v : Word) (s : State) :
    (w = 2 ∧ v.getLsbD 0 = true ∧ s.phase = .idle ∧ HasStatus (busWrite w v s) .busy false s.wovr 0) ∨
    (s.phase = .busy ∧ DropsWhileBusy w v ∧ HasStatus (busWrite w v s) .busy s.done true s.errCode) ∨
    (w = 3 ∧ HasStatus (busWrite w v s) s.phase (s.done && !v.getLsbD 1) (s.wovr && !v.getLsbD 2) s.errCode) ∨
    HasStatus (busWrite w v s) s.phase s.done s.wovr s.errCode := by
  obtain ⟨hw, e⟩ | ⟨hw, e⟩ | ⟨-, -, e⟩ := busWrite_cases w v s
  · rw [e]
    obtain hq | hq := phase_cases s
    · rw [ctrlWrite_idle v s hq]
      split
      · next hv => exact .inl ⟨hw, hv, hq, rfl, rfl, rfl, rfl⟩
      · exact .inr (.inr (.inr ⟨rfl, rfl, rfl, rfl⟩))
    · rw [ctrlWrite_busy v s hq]
      split
      · next hv => exact .inr (.inl ⟨hq, .inl ⟨hw, hv⟩, hq, rfl, rfl, rfl⟩)
      · exact .inr (.inr (.inr ⟨rfl, rfl, rfl, rfl⟩))
  · rw [e, statusWrite_eq]
    exact .inr (.inr (.inl ⟨hw, rfl, rfl, rfl, rfl⟩))
  · rw [e]
    obtain hq | hq := phase_cases s
    · rw [dataWrite_idle _ v s hq]
      exact .inr (.inr (.inr (storeReg_status _ v s)))
    · rw [dataWrite_busy _ v s hq]
      split
      · next hr => exact .inr (.inl ⟨hq, .inr ((regAt_isOperand w).mp hr), hq, rfl, rfl, rfl⟩)
      · exact .inr (.inr (.inr ⟨rfl, rfl, rfl, rfl⟩))

/-- A write dropped while BUSY sets WOVR (R64). -/
theorem busWrite_dropped_wovr (w : BitVec 8) (v : Word) (s : State) (hq : s.phase = .busy) (hd : DropsWhileBusy w v) :
    (busWrite w v s).wovr = true := by
  obtain ⟨rfl, hv⟩ | hw := hd
  · change (ctrlWrite v s).wovr = true
    rw [ctrlWrite_busy v s hq, if_pos (show startBit v = true from hv)]; rfl
  · have hr := (regAt_isOperand w).mpr hw
    obtain ⟨rfl, -⟩ | ⟨rfl, -⟩ | ⟨-, -, e⟩ := busWrite_cases w v s
    · simp at hw
    · simp at hw
    · rw [e, dataWrite_busy _ v s hq, if_pos hr]; rfl

/-! ### A step -/

/-- What a step from s to t does to the STATUS fields, with its cause. -/
inductive StatusStep (s t : State) : Prop
  /-- A completion (R171). -/
  | completion (hbusy : s.phase = .busy) (hcore : s.nextIsCore = true)
      (ht : HasStatus t .idle true s.wovr t.errCode)
  /-- A start (R170). -/
  | start (v : Word) (hw : s.nextWrite = some (2, v)) (hv : v.getLsbD 0 = true) (hidle : s.phase = .idle)
      (ht : HasStatus t .busy false s.wovr 0)
  /-- A write dropped while BUSY (R64). -/
  | drop (w : BitVec 8) (v : Word) (hw : s.nextWrite = some (w, v)) (hbusy : s.phase = .busy) (hd : DropsWhileBusy w v)
      (ht : HasStatus t .busy s.done true s.errCode)
  /-- A STATUS write (R65). -/
  | statusWrite (v : Word) (hw : s.nextWrite = some (3, v))
      (ht : HasStatus t s.phase (s.done && !v.getLsbD 1) (s.wovr && !v.getLsbD 2) s.errCode)
  /-- A reset (R260). -/
  | reset (hr : s.nextIsReset = true) (ht : HasStatus t .idle false false 0)
  /-- Any other step. -/
  | keep (ht : HasStatus t s.phase s.done s.wovr s.errCode)

theorem step_status (s t : State) (h : step s = .next t) : StatusStep s t := by
  obtain ⟨hq, hn, p, rfl⟩ | ⟨-, -, p, rfl⟩ | ⟨hr, p, rfl⟩ | ⟨w, p, rfl⟩ | ⟨w, v, p, hw, rfl⟩ :=
    step_cases s t h
  · obtain ⟨hp, hd⟩ := completeOf_ends (instrOfCode s.pendingCmd s.ie) { s with port := p, turn := .core }
    exact .completion hq hn ⟨hp, hd, completeOf_wovr _ _, rfl⟩
  · exact .keep ⟨rfl, rfl, rfl, rfl⟩
  · exact .reset hr ⟨rfl, rfl, rfl, rfl⟩
  · exact .keep ⟨rfl, rfl, rfl, rfl⟩
  · obtain ⟨rfl, hv, hq, e⟩ | ⟨hq, hd, e⟩ | ⟨rfl, e⟩ | e :=
      busWrite_status_cases w v { s with port := p, turn := .host }
    · exact .start v hw hv hq e
    · exact .drop w v hw hq hd e
    · exact .statusWrite v hw e
    · exact .keep e

/-- A step whose input is a host write is that write (20_memory.md R61, R12). -/
theorem step_of_nextWrite (s : State) (w : BitVec 8) (v : Word) (h : s.nextWrite = some (w, v)) :
    ∃ p, step s = .next (busWrite w v { s with port := p, turn := .host }) := by
  unfold State.nextWrite at h
  split at h
  · next rest hp =>
    cases h
    exact ⟨rest, step_of_hostWrite s _ w v (fetch_cons s _ rest hp) rfl⟩
  · next addr n _ rest hp =>
    split at h
    · next hr =>
      cases h
      have hf : fetch s = hostAccess (.write w v) { s with port := rest, turn := .host } :=
        (fetch_cons s _ rest hp).trans (platformAccess_of_word addr n _ _ w hr)
      exact ⟨rest, step_of_hostWrite s _ w v hf rfl⟩
    · cases h
    · cases h
  · cases h

theorem step_of_nextIsReset (s : State) (h : s.nextIsReset = true) :
    ∃ p, step s = .next (resetBlock { s with port := p }) := by
  unfold State.nextIsReset at h
  split at h
  · next rest hp => exact ⟨rest, step_reset s rest hp⟩
  · cases h

/-! ### DONE, WOVR and ERR_CODE -/

/-- Settles O37: of the causes in `StatusStep` only a completion, which ends IDLE, sets DONE. -/
theorem doneChangesOnlyAsStated : Obligations.DoneChangesOnlyAsStated := by
  refine ⟨fun _ => rfl, fun s t h => ?_⟩
  cases step_status s t h with
  | completion hbusy hcore ht =>
    exact ⟨fun _ _ => ⟨hbusy, ht.phase, hcore⟩, by simp [ht.done], by simp [ht.phase]⟩
  | start v hw hv hidle ht =>
    exact ⟨by simp [ht.done], fun _ _ => .inr (.inr ⟨v, hw, hv, hidle, ht.phase⟩), fun _ _ => ht.done⟩
  | drop w v hw hbusy hdrop ht =>
    exact ⟨by simp +contextual [ht.done], by simp +contextual [ht.done], fun apart _ => ht.done.trans (apart hbusy)⟩
  | statusWrite v hw ht =>
    refine ⟨by simp +contextual [ht.done], fun hs hc => .inr (.inl ⟨v, hw, ?bit1⟩), fun apart hb => ?apart⟩
    case bit1 => simpa [ht.done, hs] using hc
    case apart => simp [ht.done, apart (ht.phase.symm.trans hb)]
  | reset hr ht => exact ⟨by simp [ht.done], fun _ _ => .inl hr, fun _ _ => ht.done⟩
  | keep ht =>
    exact ⟨by simp +contextual [ht.done], by simp +contextual [ht.done],
      fun apart hb => ht.done.trans (apart (ht.phase.symm.trans hb))⟩

/-- Settles O38: of the causes in `StatusStep` only a dropped write sets WOVR, and only a STATUS write or a reset clears
it. -/
theorem wovrIsSticky : Obligations.WovrIsSticky := by
  intro s t h
  refine ⟨fun hs hset => ?sets, fun hs hclr => ?clears, fun w v hbusy hw hdrop => ?dropped⟩
  case sets =>
    cases step_status s t h with
    | drop w v hw hbusy hdrop _ => exact ⟨hbusy, w, v, hw, hdrop⟩
    | completion _ _ ht | start _ _ _ _ ht | statusWrite _ _ ht | reset _ ht | keep ht => simp [ht.wovr, hs] at hset
  case clears =>
    cases step_status s t h with
    | reset hr _ => exact .inl hr
    | statusWrite v hw ht => exact .inr ⟨v, hw, by simpa [ht.wovr, hs] using hclr⟩
    | completion _ _ ht | start _ _ _ _ ht | drop _ _ _ _ _ ht | keep ht => simp [ht.wovr, hs] at hclr
  case dropped =>
    obtain ⟨p, hp⟩ := step_of_nextWrite s w v hw
    cases h.symm.trans hp
    exact busWrite_dropped_wovr w v _ hbusy hdrop

/-- Settles O39: of the causes in `StatusStep` a completion, a start and a reset write ERR_CODE, the last two 0. -/
theorem errCodeChangesOnlyAsStated : Obligations.ErrCodeChangesOnlyAsStated := by
  intro s t h
  refine ⟨fun hne => ?changes, fun hidle hbusy => ?start, fun hr => ?reset, fun hs hbusy => ?busy⟩
  case changes =>
    cases step_status s t h with
    | completion hbusy hcore ht => exact .inl ⟨hbusy, ht.phase, hcore⟩
    | start _ _ _ hidle ht => exact .inr (.inl ⟨hidle, ht.phase⟩)
    | reset hr _ => exact .inr (.inr hr)
    | drop _ _ _ _ _ ht | statusWrite _ _ ht | keep ht => exact absurd ht.errCode hne
  case start =>
    cases step_status s t h with
    | start _ _ _ _ ht => exact ht.errCode
    | drop _ _ _ hs _ _ => simp [hs] at hidle
    | completion _ _ ht | statusWrite _ _ ht | reset _ ht | keep ht => simp [ht.phase, hidle] at hbusy
  case reset =>
    obtain ⟨p, hp⟩ := step_of_nextIsReset s hr
    cases h.symm.trans hp
    rfl
  case busy =>
    cases step_status s t h with
    | drop _ _ _ _ _ ht | statusWrite _ _ ht | keep ht => exact ht.errCode
    | start _ _ _ hidle _ => simp [hs] at hidle
    | completion _ _ ht | reset _ ht => simp [ht.phase] at hbusy

end Sys2Proof.Machine
end

section
/-! A bus transaction while the core is BUSY: it leaves alone what the completion reads, so the completion that follows any
number of them is the immediate one (20_memory.md R74, 42_generate_zeroize.md R173). -/

namespace Sys2Proof.Machine

/-- t is s but for IE, DONE, WOVR and the model's own fields, none of which a completion reads. -/
def SameCompletion (s t : State) : Prop :=
  t = { s with ie := t.ie, done := t.done, wovr := t.wovr, rdata := t.rdata, draws := t.draws, port := t.port,
               turn := t.turn }

theorem SameCompletion.refl (s : State) : SameCompletion s s := rfl

theorem SameCompletion.trans {s t u : State} (hst : SameCompletion s t) (htu : SameCompletion t u) :
    SameCompletion s u := by
  unfold SameCompletion at hst
  rw [hst] at htu
  exact htu

theorem SameCompletion.phase_eq {s t : State} (h : SameCompletion s t) : t.phase = s.phase :=
  (congrArg State.phase h :)

theorem SameCompletion.pendingCmd_eq {s t : State} (h : SameCompletion s t) : t.pendingCmd = s.pendingCmd :=
  (congrArg State.pendingCmd h :)

/-- Which inputs wait, and whose turn it is, is nothing a completion reads. -/
theorem SameCompletion.port_turn {s t : State} (h : SameCompletion s t) (p : List Event) (a : Agent) :
    SameCompletion { s with port := p, turn := a } { t with port := p, turn := a } := by
  unfold SameCompletion at h
  rw [h]
  rfl

/-- A bus transaction while BUSY changes no operand and not the pending command (R64, R173). -/
theorem serve_busy_sameCompletion (a : Access) (s : State) (h : s.phase = .busy) : SameCompletion s (serve a s) := by
  cases a with
  | read w => rfl
  | write w v =>
    change SameCompletion s (busWrite w v s)
    rw [busWrite_busy_frame w v s h]
    rfl

/-- A run over the transactions, by induction over them: they are used up and the core stays BUSY on the same command. -/
theorem run_bus_busy (accesses : List Access) (rest : List Event) (n : Nat) (s : State) (h : s.phase = .busy)
    (hp : s.port = accesses.map .bus ++ rest) :
    ∃ t, core.run (accesses.length + n) s = core.run n t ∧ t.port = rest ∧ SameCompletion s t := by
  induction accesses generalizing s with
  | nil => exact ⟨s, by simp, hp, .refl s⟩
  | cons a accesses ih =>
    have hs := step_bus s a (accesses.map Event.bus ++ rest) hp
    have hsame : SameCompletion s (serve a { s with port := accesses.map .bus ++ rest, turn := .host }) :=
      .trans (t := { s with port := accesses.map .bus ++ rest, turn := .host }) rfl (serve_busy_sameCompletion a _ h)
    obtain ⟨t, ht, htp, hst⟩ := ih _ (hsame.phase_eq.trans h) (serve_port _ _)
    refine ⟨t, ?_, htp, hsame.trans hst⟩
    rw [List.length_cons, Nat.add_right_comm, run_succ_next s _ _ hs, ht]

theorem completeOf_turn (i : Instr) (s : State) : (completeOf i s).turn = s.turn :=
  (congrArg State.turn (completeOf_frame i s) :)

/-- The completions of two such states leave the same but for IE, WOVR, the read output and the draw count. -/
theorem SameCompletion.completeOf_eq {s t : State} (h : SameCompletion s t) (hp : t.port = s.port)
    (ht : t.turn = s.turn) :
    completeOf (instrOfCode t.pendingCmd t.ie) t =
      { completeOf (instrOfCode s.pendingCmd s.ie) s with
        ie := t.ie, wovr := t.wovr, rdata := t.rdata, draws := t.draws } := by
  have hcode : (instrOfCode t.pendingCmd t.ie).code = (instrOfCode s.pendingCmd s.ie).code := by
    simp [h.pendingCmd_eq]
  rw [completeOf_congr _ _ hcode s t h, hp, ht, ← completeOf_port (instrOfCode s.pendingCmd s.ie) s,
    ← completeOf_turn (instrOfCode s.pendingCmd s.ie) s]

/-- Settles O43: the transactions leave what the completion reads, so it does what it would have done at once. -/
theorem resultIsAsIfSampledAtStart : Obligations.ResultIsAsIfSampledAtStart := by
  intro s accesses hbusy
  obtain ⟨t, hrun, hport, hsame⟩ :=
    run_bus_busy accesses [.core] 1 { s with port := accesses.map .bus ++ [.core] } hbusy rfl
  have htbusy : t.phase = .busy := hsame.phase_eq.trans hbusy
  have heq := (hsame.port_turn [] .core).completeOf_eq rfl rfl
  refine ⟨_, _, hrun.trans (run_one _ _ (step_core_turn_busy t [] htbusy hport)),
    run_one _ _ (step_core_turn_busy { s with port := [.core] } [] hbusy rfl), (completeOf_ends _ _).1, ?_⟩
  exact heq.trans (by rw [heq])

end Sys2Proof.Machine
end

section
/-! The value of every read and the effect of every write, word by word (20_memory.md R61 to R65). -/

namespace Sys2Proof.Machine

/-! ### Reads -/

/-- What a read of a register shows (R62): the table's value, or a draw for a result register while BUSY. -/
def State.shown (s : State) : Reg → Word
  | .id => 0x4F545031
  | .caps => 0x00000A40
  | .ctrl => (if s.ie then 0x100 else 0) + 16 * s.cmd.setWidth 32
  | .status =>
    16 * s.errCode.setWidth 32 + (if s.wovr then 4 else 0) + (if s.done then 2 else 0) + (if s.phase = .busy then 1 else 0)
  | .keyLen => s.keyLen.setWidth 32
  | .digits => s.digits.setWidth 32
  | .counterHi => s.counterHi
  | .counterLo => s.counterLo
  | .trunc => if s.phase = .busy then Config.draw s.draws else s.trunc.setWidth 32
  | .truncOff => if s.phase = .busy then Config.draw s.draws else s.truncOff.setWidth 32
  | .codeVal => if s.phase = .busy then Config.draw s.draws else s.codeVal
  | .codeChr j => if s.phase = .busy then Config.draw s.draws else s.codeChr[j]
  | .key _ => 0
  | .digest j => if s.phase = .busy then Config.draw s.draws else s.digest[j]
  | .reserved => 0

theorem busRead_eq_shown (w : BitVec 8) (s : State) : busRead w s = s.shown (regAt w) := by
  simp only [busRead, readDraws, Bool.and_eq_true, busy_iff]
  cases regAt w with
  | trunc | truncOff | codeVal | codeChr | digest => simp [Reg.isResult, State.shown, State.readReg]
  | ctrl => exact (if_neg (by simp [Reg.isResult])).trans (ctrlWord_eq s)
  | status => exact (if_neg (by simp [Reg.isResult])).trans (statusWord_eq s)
  | id | caps | keyLen | digits | counterHi | counterLo | key | reserved => exact if_neg (by simp [Reg.isResult])

/-- Settles O15: the words of the map one after another; the KEY words and the reserved ones read 0. -/
theorem busReadGivesEachWord : Obligations.BusReadGivesEachWord := by
  intro s w
  refine ⟨rfl, rfl, ?_⟩
  rw [busRead_eq_shown, regAt_table]
  simp only [apply_ite s.shown, apply_dite s.shown]
  -- the fourteen words that stand alone in both tables
  iterate 14 refine ite_congr rfl (fun _ => rfl) fun _ => ?_
  by_cases hkey : 16 ≤ w.toNat ∧ w.toNat < 32
  · rw [dif_pos hkey, dif_neg (by omega)]; rfl
  · rw [dif_neg hkey]; rfl

/-! ### Writes -/

theorem regAt_of_index (w : BitVec 8) (r : Reg) (h : w.toNat = r.index.toNat) : regAt w = r := by
  rw [BitVec.eq_of_toNat_eq h, regAt_index]

theorem regAt_key_word (w : BitVec 8) (h : 16 ≤ w.toNat ∧ w.toNat < 32) : regAt w = .key ⟨w.toNat - 16, by omega⟩ :=
  regAt_of_index w _ (by simp [Reg.index]; omega)

theorem regAt_digest_word (w : BitVec 8) (h : 32 ≤ w.toNat ∧ w.toNat < 37) :
    regAt w = .digest ⟨w.toNat - 32, by omega⟩ :=
  regAt_of_index w _ (by simp [Reg.index]; omega)

theorem storeReg_of_not_operand (r : Reg) (v : Word) (s : State) (h : r.isOperand = false) : storeReg r v s = s := by
  cases r with
  | keyLen | digits | counterHi | counterLo | key | digest => cases h
  | id | caps | ctrl | status | trunc | truncOff | codeVal | codeChr | reserved => rfl

/-- Settles O18: word 3 is STATUS, and its write looks at no PHASE. -/
theorem statusWriteClearsDoneAndWovr : Obligations.StatusWriteClearsDoneAndWovr :=
  fun _ _ => rfl

/-- Settles O16: CTRL, STATUS, and a store to the register of each operand word; no other word has one. -/
theorem busWriteWhileIdle : Obligations.BusWriteWhileIdle := by
  intro s w v hidle
  obtain ⟨rfl, e⟩ | ⟨rfl, e⟩ | ⟨h2, h3, e⟩ := busWrite_cases w v s
  · rw [e, ctrlWrite_idle v s hidle]; rfl
  · rw [e, statusWrite_eq]; rfl
  · rw [e, dataWrite_idle _ v s hidle, if_neg h2, if_neg h3]
    split_ifs with h4 h5 h6 h7 hkey hdigest
    · subst h4; rw [← setWidth_eight]; rfl
    · subst h5; rw [← setWidth_eight]; rfl
    · subst h6; rfl
    · subst h7; rfl
    · rw [regAt_key_word w hkey]; rfl
    · rw [regAt_digest_word w hdigest]; rfl
    · refine storeReg_of_not_operand _ v s (Bool.eq_false_iff.mpr fun hop => ?_)
      have hrange := (regAt_isOperand w).mp hop
      bv_omega

/-- Settles O17: CTRL, STATUS, and the drop of a write to an operand word. -/
theorem busWriteWhileBusy : Obligations.BusWriteWhileBusy := by
  intro s w v hbusy
  obtain ⟨rfl, e⟩ | ⟨rfl, e⟩ | ⟨h2, h3, e⟩ := busWrite_cases w v s
  · rw [e, ctrlWrite_busy v s hbusy, if_pos rfl, startBit]
    cases v.getLsbD 0 <;> simp [dropWrite, ieField]
  · rw [e, statusWrite_eq]; rfl
  · rw [e, dataWrite_busy _ v s hbusy, if_neg h2, if_neg h3]
    exact if_congr (regAt_isOperand w) rfl rfl

/-! ### Steps -/

/-- Settles O11: a command word's `exec` and any other write end alike, in BusWrite. -/
theorem writeStepIsBusWrite : Obligations.WriteStepIsBusWrite :=
  fun s w v rest h => step_bus s (.write w v) rest h

theorem busRead_port_turn (w : BitVec 8) (s : State) (p : List Event) (a : Agent) :
    busRead w { s with port := p, turn := a } = busRead w s := by
  rw [busRead_eq_shown, busRead_eq_shown]
  cases regAt w <;> rfl

/-- Settles O12: the value read depends neither on the inputs still to come nor on whose turn it is. -/
theorem readStepReturnsBusRead : Obligations.ReadStepReturnsBusRead := by
  intro s w rest h
  exact ⟨_, step_read s w rest h, busRead_port_turn w s rest .host, rfl, rfl⟩

end Sys2Proof.Machine
end

section
/-! The command word field by field (30_encoding.md R80 to R83): which bits a mask compares, what `decode` reads, and the
command that a written or a placed word runs. -/

namespace Sys2Proof

/-! ### Words under a mask -/

/-- Two words agree under a mask exactly when they agree at every bit of the mask. -/
theorem and_mask_eq_iff {m : Word} (bits : List Nat) (hm : ∀ n < 32, m.getLsbD n = decide (n ∈ bits)) (v w : Word) :
    v &&& m = w &&& m ↔ ∀ n ∈ bits, v.getLsbD n = w.getLsbD n := by
  constructor
  · intro h n hn
    by_cases hlt : n < 32
    · have hbit := congrArg (BitVec.getLsbD · n) h
      simpa [hm n hlt, hn] using hbit
    · rw [BitVec.getLsbD_of_ge v n (by omega), BitVec.getLsbD_of_ge w n (by omega)]
  · intro h
    refine BitVec.eq_of_getLsbD_eq fun n hlt => ?_
    by_cases hn : n ∈ bits
    · simp [h n hn]
    · simp [hm n hlt, hn]

theorem cmdField_eq_iff (v w : Word) :
    cmdField v = cmdField w ↔
      v.getLsbD 4 = w.getLsbD 4 ∧ v.getLsbD 5 = w.getLsbD 5 ∧ v.getLsbD 6 = w.getLsbD 6 := by
  simp only [cmdField, BitVec.eq_of_getLsbD_eq_iff, BitVec.getLsbD_extractLsb']
  constructor
  · intro h
    exact ⟨h 0 (by decide), h 1 (by decide), h 2 (by decide)⟩
  · rintro ⟨h4, h5, h6⟩ n hn
    interval_cases n <;> simpa

/-- The mask 0x71 compares START and CMD (R83). -/
theorem and_mask71_eq_iff (v w : Word) :
    v &&& 0x71 = w &&& 0x71 ↔ startBit v = startBit w ∧ cmdField v = cmdField w := by
  rw [and_mask_eq_iff [0, 4, 5, 6] (by decide), cmdField_eq_iff]
  simp [startBit]

/-- The mask 0x171 compares START, CMD and IE (R81). -/
theorem and_mask171_eq_iff (v w : Word) :
    v &&& 0x171 = w &&& 0x171 ↔ startBit v = startBit w ∧ cmdField v = cmdField w ∧ ieField v = ieField w := by
  rw [and_mask_eq_iff [0, 4, 5, 6, 8] (by decide), cmdField_eq_iff]
  simp [startBit, ieField, and_assoc]

/-! ### Decoding and encoding -/

/-- `decode` answers the command of the word's fields, and needs no more than them. -/
theorem decode_eq_ok_iff (v : Word) (i : Instr) :
    decode v = .ok i ↔ startBit v = true ∧ cmdField v = i.code ∧ ieField v = i.ie := by
  refine ⟨fields_of_decode v i, ?_⟩
  rintro ⟨hstart, hcmd, hie⟩
  rw [decode_started v hstart, hcmd, hie, instrOfCode_of_code]

theorem decode_encode (i : Instr) : decode (encode i) = .ok i := by
  simp [decode_eq_ok_iff]

/-- Every command stands for its row of the opcode table (R82, R83). -/
theorem tableRow : ∀ i : Instr, Laws.TableRow.Statement i
  | .reserved0 ie => Laws.TableRow.reserved0 ie
  | .gen ie => Laws.TableRow.gen ie
  | .hmac ie => Laws.TableRow.hmac ie
  | .trunc ie => Laws.TableRow.trunc ie
  | .zeroize ie => Laws.TableRow.zeroize ie
  | .reserved5 ie => Laws.TableRow.reserved5 ie
  | .reserved6 ie => Laws.TableRow.reserved6 ie
  | .reserved7 ie => Laws.TableRow.reserved7 ie

/-- A canonical word has no bit outside START, CMD and IE (R83). -/
theorem encode_and_mask171 (i : Instr) : encode i &&& 0x171 = encode i := by
  rw [← instrOfCode_of_code i]
  generalize i.code = c, i.ie = ie
  revert c ie; decide

/-- Settles O6: under the mask 0x171 two words agree exactly when the fields that `decode` reads do. -/
theorem decodeReadsOnlyStartCmdIe : Obligations.DecodeReadsOnlyStartCmdIe := by
  intro v i
  calc decode v = .ok i
    _ ↔ startBit v = true ∧ cmdField v = i.code ∧ ieField v = i.ie := decode_eq_ok_iff v i
    _ ↔ v &&& 0x171 = encode i &&& 0x171 := by rw [and_mask171_eq_iff]; simp
    _ ↔ v &&& 0x171 = encode i := by rw [encode_and_mask171]

/-- Settles O5: `decode` reads the three fields back, and no canonical word sets a reserved bit. -/
theorem decodeOfEncodeIsTheCommand : Obligations.DecodeOfEncodeIsTheCommand := by
  intro i _
  obtain ⟨-, -, -, hword⟩ := tableRow i
  exact ⟨decode_encode i, hword⟩

/-- Settles O4: canonical words, one word that differs from GEN's in reserved bits only, and one without START. -/
theorem commandWordsDecode : Obligations.CommandWordsDecode :=
  ⟨decode_encode (.gen false), decode_encode (.gen true), decode_encode (.hmac false), decode_encode (.hmac true),
    decode_encode (.trunc false), decode_encode (.trunc true), decode_encode (.zeroize false),
    decode_encode (.zeroize true), decode_encode (.reserved0 false), decode_encode (.reserved5 false),
    decode_encode (.reserved6 false), decode_encode (.reserved7 false),
    (decodeReadsOnlyStartCmdIe _ _).mpr (by decide), decode_unstarted _ (by decide)⟩

theorem decodeCtrl_started (v : Word) (h : startBit v = true) :
    decodeCtrl v = .command (instrOfCode (cmdField v) (ieField v)) := by
  rw [decodeCtrl, decode_started v h]

theorem decodeCtrl_unstarted (v : Word) (h : startBit v = false) :
    decodeCtrl v = .configuration (ieField v) (cmdField v) := by
  rw [decodeCtrl, decode_unstarted v h]

/-- The match of command code c, `(c << 4) | 1` (R83). -/
def matchWord (c : BitVec 3) : Word := (c.setWidth 32 <<< 4) ||| 1

theorem matchWord_fields (c : BitVec 3) :
    matchWord c &&& 0x71 = matchWord c ∧ startBit (matchWord c) = true ∧ cmdField (matchWord c) = c := by
  revert c; decide

/-- A word has the match of code c under the mask 0x71 exactly when START = 1 and CMD = c (R83). -/
theorem and_mask71_eq_matchWord_iff (v : Word) (c : BitVec 3) :
    v &&& 0x71 = matchWord c ↔ startBit v = true ∧ cmdField v = c := by
  obtain ⟨hmask, hstart, hcmd⟩ := matchWord_fields c
  rw [← hmask, and_mask71_eq_iff, hstart, hcmd]

/-- Settles O7: START decides between configuration and command, and a code's match holds exactly START = 1 and CMD. -/
theorem everyCtrlValueDecodes : Obligations.EveryCtrlValueDecodes := by
  refine ⟨fun v => ⟨decodeCtrl_unstarted v, fun h => ?command⟩, and_mask71_eq_matchWord_iff, fun ie => ?canonical⟩
  case command => exact ⟨_, decodeCtrl_started v h, instrOfCode_code _ _, instrOfCode_ie _ _⟩
  case canonical => exact ⟨rfl, rfl, rfl, rfl, rfl, rfl, rfl, rfl⟩

/-- A table word that the decoder reads as a command fits in its bit count and decodes as a CTRL write does (R86). -/
theorem decode_of_decodeTableWord (nbits w : Nat) (i : Instr) (h : decodeTableWord nbits w = some i) :
    w < 2 ^ nbits ∧ decode (BitVec.ofNat 32 w) = .ok i := by
  unfold decodeTableWord tableWord at h
  split at h
  · cases h
  · next v hv =>
    split at hv
    · next hfits =>
      cases hv
      split at h
      · next j hj => cases h; exact ⟨hfits.1, hj⟩
      · cases h
    · cases hv

end Sys2Proof

namespace Sys2Proof.Machine

/-- Settles O8: the write is fetched as its command. -/
theorem stepRunsTheWrittenCommand : Obligations.StepRunsTheWrittenCommand :=
  fun s v i rest hp hd => step_of_command s _ i (fetch_command s v i rest hp hd)

/-- Settles O10: the placed word is a CTRL write in front of the inputs, and it decodes as the table word does. -/
theorem stepRunsThePlacedWord : Obligations.StepRunsThePlacedWord := by
  intro s w i h
  obtain ⟨hw, hd⟩ := decode_of_decodeTableWord 32 w i h
  have hword : BitVec.ofNat 32 (w % 2 ^ 32) = BitVec.ofNat 32 w := by rw [Nat.mod_eq_of_lt hw]
  exact stepRunsTheWrittenCommand (s.withFetchWord 32 w) _ i s.port rfl (hword ▸ hd)

end Sys2Proof.Machine
end

section
/-! LOADKEY on an idle block (30_encoding.md R89): the key words one after another, then KEY_LEN, and the bytes that the
key buffer then holds (10_state.md R34). -/

namespace Sys2Proof.Machine

/-- The write of key word j in LOADKEY of the bytes K, as `loadKey` has it (R89). -/
def keyWordWrite (K : List Byte) (j : Nat) : Script :=
  .wr (BitVec.ofNat 8 (16 + j)) (.lit ((be32 K (4 * j)).setWidth 64))

theorem loadKey_eq (K : List Byte) :
    loadKey K = Script.all (((List.range (keyWords K.length)).map (keyWordWrite K)) ++
      [wrLit .keyLen (BitVec.ofNat 32 K.length)]) := rfl

theorem keyWords_le {L : Nat} (h : L ≤ 64) : keyWords L ≤ 16 := by unfold keyWords; omega

/-- t is s but for the key buffer, whose first n words hold the bytes K, and the turn. -/
structure KeyLoaded (K : List Byte) (n : Nat) (s t : State) : Prop where
  words : ∀ j : Fin 16, j.val < n → t.key[j] = be32 K (4 * j.val)
  frame : { t with key := s.key, turn := s.turn } = s

theorem KeyLoaded.phase_eq {K : List Byte} {n : Nat} {s t : State} (h : KeyLoaded K n s t) : t.phase = s.phase :=
  (congrArg State.phase h.frame :)

/-- `WR` of a fixed value to a data register of an idle block stores it (R63). -/
theorem run_wrLit (h : HostRun) (r : Reg) (v : Word) (hi : h.block.phase = .idle) (h1 : r ≠ .ctrl) (h2 : r ≠ .status) :
    (wrLit r v).run h =
      .go { h with block := storeReg r v { h.block with turn := .host }, sched := h.sched.tail } := by
  have hv : (v.setWidth 64).setWidth 32 = v := by simp
  rw [wrLit, run_wr h _ _ _ hi rfl, hv, busWrite_index r v _ h1 h2,
    dataWrite_idle r v { h.block with turn := .host } hi]

theorem keyWordWrite_eq_wrLit (K : List Byte) (j : Fin 16) : keyWordWrite K j = wrLit (.key j) (be32 K (4 * j)) := rfl

theorem KeyLoaded.store_next {K : List Byte} {s t : State} (j : Fin 16) (h : KeyLoaded K j s t) :
    KeyLoaded K (j + 1) s (storeReg (.key j) (be32 K (4 * j)) { t with turn := .host }) where
  words i hi := by
    change (t.key.set j (be32 K (4 * j)))[i] = be32 K (4 * i)
    obtain hlt | rfl : i.val < j.val ∨ i = j := by omega
    · simpa [Vector.getElem_set_ne _ _ hlt.ne'] using h.words i hlt
    · simp
  frame := h.frame

/-- The first n key words of LOADKEY, by induction on n. -/
theorem run_keyWords (K : List Byte) (n : Nat) (hn : n ≤ 16) (h : HostRun) (hi : h.block.phase = .idle) :
    ∃ h', (Script.all ((List.range n).map (keyWordWrite K))).run h = .go h' ∧ KeyLoaded K n h.block h'.block := by
  induction n with
  | zero => exact ⟨h, rfl, ⟨fun _ hj => absurd hj (Nat.not_lt_zero _), rfl⟩⟩
  | succ n ih =>
    obtain ⟨h1, hrun, hloaded⟩ := ih (by omega)
    have hwr := run_wrLit h1 (.key ⟨n, hn⟩) (be32 K (4 * n)) (hloaded.phase_eq.trans hi) (by simp) (by simp)
    rw [← keyWordWrite_eq_wrLit K ⟨n, hn⟩] at hwr
    rw [List.range_succ, List.map_append]
    exact ⟨_, run_all_append _ _ h h1 _ hrun (run_all_cons _ [] h1 _ _ hwr rfl), hloaded.store_next ⟨n, hn⟩⟩

/-- Words that hold K big-endian begin with the bytes K; nothing is said of the bytes past them. -/
theorem wordsBytes_take_eq (K : List Byte) (ws : List Word)
    (hws : ∀ j < keyWords K.length, ws[j]? = some (be32 K (4 * j))) : (wordsBytes ws).take K.length = K := by
  refine List.ext_getElem? fun i => ?_
  by_cases hi : i < K.length
  · have hword := hws (i / 4) (by unfold keyWords; omega)
    have hbyte : 4 * (i / 4) + i % 4 = i := by omega
    rw [List.getElem?_take_of_lt hi, wordsBytes_get, hword, Option.bind_some, be4_be32 K _ _ (by omega), hbyte]
    simp [hi]
  · rw [List.getElem?_eq_none (by simp; omega), List.getElem?_eq_none (by omega)]

/-- A key buffer loaded with every word of K begins with K (R34). -/
theorem KeyLoaded.keyBytes_take {K : List Byte} {s t : State} (h : KeyLoaded K (keyWords K.length) s t)
    (hK : K.length ≤ 64) : t.keyBytes.take K.length = K := by
  refine wordsBytes_take_eq K _ fun j hj => ?_
  have hj16 : j < 16 := hj.trans_le (keyWords_le hK)
  have hword := h.words ⟨j, hj16⟩ hj
  simpa [hj16] using hword

/-- Settles O52: the key words by induction, then the KEY_LEN write, which makes the loaded bytes the secret. -/
theorem loadKeyMakesTheSecret : Obligations.LoadKeyMakesTheSecret := by
  intro K h _ hK hi
  obtain ⟨h1, hrun, hloaded⟩ := run_keyWords K (keyWords K.length) (keyWords_le hK) h hi
  have hi1 : h1.block.phase = .idle := hloaded.phase_eq.trans hi
  have hwr := run_wrLit h1 .keyLen (BitVec.ofNat 32 K.length) hi1 (by simp) (by simp)
  have hlen : ((BitVec.ofNat 32 K.length).setWidth 8).toNat = K.length := by simp; omega
  rw [loadKey_eq]
  have hsecret := (congrArg h1.block.keyBytes.take hlen).trans (hloaded.keyBytes_take hK)
  have hframe := congrArg (fun t : State => { t with keyLen := h.block.keyLen }) hloaded.frame
  exact ⟨_, run_all_append _ _ h h1 _ hrun (run_all_cons _ [] h1 _ _ hwr rfl), hsecret, hi1, hlen, hframe⟩

end Sys2Proof.Machine
end

section
/-! The padding of SHA-1, the two messages that HMAC-SHA1 hashes, and the commands that store the digest
(40_hmac_sha1.md R101 to R120). -/

namespace Sys2Proof.Machine

/-! ### Padding (R101) -/

theorem padZeros_wholeBlocks (len : Nat) : (len + 1 + padZeros len + 8) % 64 = 0 := by unfold padZeros; omega

theorem padZeros_least (len z : Nat) (h : (len + 1 + z + 8) % 64 = 0) : padZeros len ≤ z := by unfold padZeros; omega

theorem pad_length (M : List Byte) : (pad M).length = M.length + 1 + padZeros M.length + 8 := by
  simp [pad]; omega

theorem pad_eq_of_length {M : List Byte} {n : Nat} (h : M.length = n) :
    pad M = M ++ [0x80] ++ List.replicate (padZeros n) 0 ++ beBytes8 (BitVec.ofNat 64 (8 * n)) := by
  rw [pad, h]

/-- Settles O32: z is `padZeros` of the message's length. -/
theorem paddingMakesWholeBlocks : Obligations.PaddingMakesWholeBlocks := by
  intro M
  have hwhole := padZeros_wholeBlocks M.length
  exact ⟨by rw [pad_length, hwhole], padZeros M.length, rfl, hwhole, padZeros_least M.length⟩

/-! ### The inner and the outer message (R110, R112) -/

theorem keyBlock_length {K : List Byte} (hK : K.length ≤ 64) : (keyBlock K).length = 64 := by
  simp [keyBlock, Config.blockBytes]; omega

/-- Byte i of the key block is the key's, or zero past the key's end (R110). -/
theorem keyBlock_getElem? {K : List Byte} {i : Nat} (hi : i < 64) : (keyBlock K)[i]? = some (K.getD i 0) := by
  unfold keyBlock
  by_cases hlt : i < K.length
  · simp [List.getElem?_append_left hlt, hlt]
  · rw [List.getElem?_append_right (by omega), List.getElem?_replicate_of_lt (by unfold Config.blockBytes; omega)]
    simp [hlt]

theorem xorPad_length {K : List Byte} (hK : K.length ≤ 64) (b : Byte) : (xorPad K b).length = 64 := by
  rw [xorPad, List.length_map, keyBlock_length hK]

theorem xorPad_getElem? {K : List Byte} (b : Byte) {i : Nat} (hi : i < 64) :
    (xorPad K b)[i]? = some (K.getD i 0 ^^^ b) := by
  rw [xorPad, List.getElem?_map, keyBlock_getElem? hi, Option.map_some]

/-- Settles O33: with the two messages' lengths, 64 + 8 and 64 + 20, the padding of each is fixed. -/
theorem hmacHashesTwoPaddedMessages : Obligations.HmacHashesTwoPaddedMessages := by
  intro K M hK hM
  have hinner : (xorPad K 0x36 ++ M).length = 72 := by rw [List.length_append, xorPad_length hK, hM]
  have houter : (xorPad K 0x5C ++ sha1 (xorPad K 0x36 ++ M)).length = 84 := by
    rw [List.length_append, xorPad_length hK, sha1_length]
  exact ⟨rfl, fun b => ⟨xorPad_length hK b, fun i hi => xorPad_getElem? b hi⟩, hinner, houter,
    pad_eq_of_length hinner, pad_eq_of_length houter, by rw [pad_length, hinner]; rfl, by rw [pad_length, houter]; rfl⟩

/-! ### The commands that store the digest (R120, R175) -/

/-- The completion of HMAC with a legal KEY_LEN (R120). -/
theorem exec_hmac_legal (ie : Bool) (s : State) (hdue : CompletionDue s) (hk : KeyLenLegal s) :
    exec (.hmac ie) s = .next (finish errNone (storeDigest s.hmacDigest s)) := by
  rw [exec_complete _ s hdue, completeHmac_ok s ie ((keyLegal_iff s).mpr hk)]

/-- The completion of GEN with a legal KEY_LEN and a legal DIGITS (R175). -/
theorem exec_gen_legal (ie : Bool) (s : State) (hdue : CompletionDue s) (hk : KeyLenLegal s) (hd : DigitsLegal s) :
    exec (.gen ie) s = .next
      (finish errNone (writeTruncResults (truncFormat s.hmacDigest s.digitCount) (storeDigest s.hmacDigest s))) := by
  rw [exec_complete _ s hdue, completeGen_ok s ie ((keyLegal_iff s).mpr hk) ((digitsLegal_iff s).mpr hd)]

/-- Settles O21: the five words stored are the 20 bytes of the digest. -/
theorem hmacWritesTheDigest : Obligations.HmacWritesTheDigest := by
  intro ie s hdue hk
  exact ⟨_, exec_hmac_legal ie s hdue hk, storeDigest_bytes s.hmacDigest s (hmacSha1_length _ _), rfl, rfl, rfl, rfl⟩

/-- The secret is the first KEY_LEN key bytes and no more (R34). -/
theorem secret_congr {s s' : State} (hlen : s'.keyLen = s.keyLen)
    (hkey : ∀ i, i < s.keyLen.toNat → s'.keyBytes[i]? = s.keyBytes[i]?) : s'.secret = s.secret := by
  unfold State.secret
  rw [hlen]
  refine List.ext_getElem? fun i => ?_
  rw [List.getElem?_take, List.getElem?_take]
  split
  · next hi => exact hkey i hi
  · rfl

/-- The digest is that of the secret and the counter (R113, R116). -/
theorem hmacDigest_congr {s s' : State} (hsecret : s'.secret = s.secret) (hhi : s'.counterHi = s.counterHi)
    (hlo : s'.counterLo = s.counterLo) : s'.hmacDigest = s.hmacDigest := by
  simp only [State.hmacDigest, State.message, State.counter, hsecret, hhi, hlo]

/-- Settles O34: the digest and the digit count, which both states share, are all that the results are written from. -/
theorem resultsDependOnOperandsOnly : Obligations.ResultsDependOnOperandsOnly := by
  intro ie ie' s s' hdue hdue' hk hlen hkey hhi hlo
  have hk' : KeyLenLegal s' := by unfold KeyLenLegal; rwa [hlen]
  have hD : s'.hmacDigest = s.hmacDigest := hmacDigest_congr (secret_congr hlen hkey) hhi hlo
  have hhmac' := exec_hmac_legal ie' s' hdue' hk'
  rw [hD] at hhmac'
  refine ⟨_, _, exec_hmac_legal ie s hdue hk, hhmac', rfl, fun hd => ?_⟩
  refine ⟨_, exec_gen_legal ie s hdue hk hd, rfl, fun hdigits => ?_⟩
  have hd' : DigitsLegal s' := by unfold DigitsLegal; rwa [hdigits]
  have hcount : s'.digitCount = s.digitCount := congrArg BitVec.toNat hdigits
  have hgen' := exec_gen_legal ie' s' hdue' hk' hd'
  rw [hD, hcount] at hgen'
  exact ⟨_, hgen', rfl, rfl, rfl, rfl, rfl⟩

end Sys2Proof.Machine
end

section
/-! Truncation and the decimal code (41_truncation_format.md R140 to R145), and TRUNC (R150). -/

namespace Sys2Proof.Machine

/-! ### The truncation window (R140, R141) -/

theorem offsetOf_lt (D : List Byte) : offsetOf D < 16 := Nat.mod_lt _ (by decide)

theorem offsetOf_set_last {D : List Byte} (hD : D.length = 20) (b : Byte) : offsetOf (D.set 19 b) = b.toNat % 16 := by
  simp [offsetOf, hD]

/-- A reading of four bytes does not see a byte past them. -/
theorem be32_set_past (D : List Byte) (b : Byte) {i j : Nat} (h : i + 3 < j) : be32 (D.set j b) i = be32 D i := by
  have hbyte {k : Nat} (hk : k < j) : (D.set j b).getD k 0 = D.getD k 0 := by
    rw [List.getD_eq_getElem?_getD, List.getElem?_set_ne hk.ne', List.getD_eq_getElem?_getD]
  rw [be32, hbyte (by omega), hbyte (by omega), hbyte (by omega), hbyte h, be32]

/-- Offset and value are all that the results are made from (R144). -/
theorem truncFormat_congr {D D' : List Byte} (hoff : truncOffset D' = truncOffset D)
    (htv : truncValue D' = truncValue D) (d : Nat) : truncFormat D' d = truncFormat D d := by
  simp only [truncFormat, hoff, htv]

/-- Byte 19 lies past the window, so its low half, which is the offset, is all of it that counts. -/
theorem truncFormat_set_last {D : List Byte} (hD : D.length = 20) (d : Nat) {b : Byte}
    (hb : b.toNat % 16 = offsetOf D) : truncFormat (D.set 19 b) d = truncFormat D d := by
  have hoff : truncOffset (D.set 19 b) = truncOffset D := by
    apply BitVec.eq_of_toNat_eq
    rw [truncOffset_toNat, truncOffset_toNat, offsetOf_set_last hD, hb]
  have hwindow : (truncOffset D).toNat + 3 < 19 := by have := (truncOffset D).isLt; omega
  refine truncFormat_congr hoff ?_ d
  rw [truncValue, hoff, be32_set_past D b hwindow, truncValue]

/-- Settles O35: the window ends at byte 18 at the latest. -/
theorem truncationReadsFourBytes : Obligations.TruncationReadsFourBytes := by
  intro D d hD
  have hoff := offsetOf_lt D
  have htv : (truncFormat D d).tv.toNat = truncatedOf D := truncValue_toNat D
  have hlt := truncatedOf_lt D
  exact ⟨truncOffset_toNat D, by omega, htv, by omega, fun _ hb => truncFormat_set_last hD d hb⟩

/-! ### The decimal code (R142, R145) -/

/-- TRUNC is 31 bits wide (R39). -/
theorem readReg_trunc_top (s : State) : (s.readReg .trunc).getLsbD 31 = false := by
  simp [State.readReg]

/-- TRUNC_OFF is 4 bits wide (R40). -/
theorem readReg_truncOff_lt (s : State) : (s.readReg .truncOff).toNat < 16 := by
  rw [State.readReg, BitVec.toNat_setWidth]
  exact (Nat.mod_le _ _).trans_lt s.truncOff.isLt

theorem decimalValue_dec_of_lt {n d : Nat} (h : n < 10 ^ d) : decimalValue (dec n d) = n := by
  rw [decimalValue_dec, Nat.mod_eq_of_lt h]

/-- With ten digits a truncated value is not reduced: it is below 2^31, which is below 10^10. -/
theorem truncatedOf_mod_ten_digits (D : List Byte) : truncatedOf D % 10 ^ 10 = truncatedOf D :=
  Nat.mod_eq_of_lt ((truncatedOf_lt D).trans (by decide))

/-- Settles O36: the code is below 10^d, so that d digits spell it. -/
theorem codeIsDecimalOfFixedLength : Obligations.CodeIsDecimalOfFixedLength := by
  refine ⟨fun s => ⟨readReg_trunc_top s, readReg_truncOff_lt s⟩, fun D d _ _ => ?_⟩
  intro r
  have hcode : r.code = truncatedOf D % 10 ^ d := reduceCode_eq D d
  have hdigits : r.code < 10 ^ d := hcode ▸ Nat.mod_lt _ (by positivity)
  have hbits : r.code < 2 ^ 31 := hcode ▸ (Nat.mod_le _ _).trans_lt (truncatedOf_lt D)
  refine ⟨rfl, dec_length _ _, dec_digits _ _, hdigits, hbits, decimalValue_dec_of_lt hdigits, rfl, ?_⟩
  rintro rfl
  rw [hcode, truncatedOf_mod_ten_digits]
  exact (truncValue_toNat D).symm

/-! ### TRUNC (R150) -/

/-- The completion of TRUNC with a legal DIGITS (R150): it looks at the digest and at DIGITS only. -/
theorem exec_trunc_legal (ie : Bool) (s : State) (hdue : CompletionDue s) (hd : DigitsLegal s) :
    exec (.trunc ie) s = .next (finish errNone (writeTruncResults (truncFormat s.digestBytes s.digitCount) s)) := by
  rw [exec_complete _ s hdue, completeTrunc_ok s ie ((digitsLegal_iff s).mpr hd)]

/-- Settles O23: the results written are those of the digest held, and the completion adds only how the command ended. -/
theorem truncWritesTheCode : Obligations.TruncWritesTheCode := by
  intro ie s hdue hd
  exact ⟨_, exec_trunc_legal ie s hdue hd, writeTruncResults_off_toNat s.digestBytes s.digitCount s,
    writeTruncResults_trunc_toNat s.digestBytes s.digitCount s,
    writeTruncResults_codeVal_toNat s.digestBytes s.digitCount s,
    writeTruncResults_codeChars s.digestBytes s.digitCount s hd.2, rfl, rfl, rfl, rfl⟩

end Sys2Proof.Machine
end

section
/-! The start of a command, what the Host may do until it completes, and its completion by the Core
(42_generate_zeroize.md R170 to R173). -/

namespace Sys2Proof.Machine

/-! ### While BUSY (R172, R173) -/

/-- A bus transaction while BUSY, its inputs and turn included, changes nothing that a completion reads. -/
theorem serve_taken_busy_sameCompletion (a : Access) (s : State) (rest : List Event) (h : s.phase = .busy) :
    SameCompletion s (serve a { s with port := rest, turn := .host }) :=
  .trans (t := { s with port := rest, turn := .host }) rfl (serve_busy_sameCompletion a _ h)

/-- With the fields of t that may differ put back, t is s. -/
theorem SameCompletion.frame {s t : State} (h : SameCompletion s t) :
    { t with ie := s.ie, done := s.done, wovr := s.wovr, rdata := s.rdata, draws := s.draws, port := s.port,
             turn := s.turn } = s := by
  unfold SameCompletion at h
  rw [h]

/-- Settles O19: a transaction while BUSY leaves what the completion reads, PHASE among it. -/
theorem busyHoldsOperands : Obligations.BusyHoldsOperands := by
  intro s a rest hbusy hp
  have hsame := serve_taken_busy_sameCompletion a s rest hbusy
  exact ⟨_, step_bus s a rest hp, hsame.phase_eq.trans hbusy, serve_port a _, hsame.frame⟩

/-! ### The start (R170) -/

/-- A command's start while IDLE: its word stores IE and CMD, and its code is started. -/
theorem exec_start_idle (i : Instr) (s : State) (h : StartDue s) :
    exec i s = .next (startCommand i.code { s with ie := i.ie, cmd := i.code }) := by
  rw [exec_start i s h.1, ctrlWrite_idle _ s h.2, startBit_encode, if_pos rfl, cmdField_encode, ieField_encode]

/-- A command word while BUSY is dropped, but for IE (R64). -/
theorem exec_start_busy (i : Instr) (s : State) (hturn : s.turn = .host) (hbusy : s.phase = .busy) :
    exec i s = .next (dropWrite { s with ie := i.ie }) := by
  rw [exec_start i s hturn, ctrlWrite_busy _ s hbusy, startBit_encode, if_pos rfl, ieField_encode]

/-- Settles O20: the start writes its own fields only, and with DONE = 0 irq is 0. -/
theorem startMakesTheCoreBusy : Obligations.StartMakesTheCoreBusy := by
  intro i s
  exact ⟨fun hdue => ⟨_, exec_start_idle i s hdue, rfl, rfl, rfl, rfl, rfl, rfl, Bool.and_false _, rfl⟩,
    exec_start_busy i s⟩

/-! ### The Core's turn (R171, R72) -/

/-- A turn offered to a BUSY core is `exec` of the pending command. -/
theorem step_core_turn_exec (s : State) (rest : List Event) (h : s.phase = .busy) (hp : s.port = .core :: rest) :
    step s = exec (instrOfCode s.pendingCmd s.ie) { s with port := rest, turn := .core } :=
  step_of_command s _ _ ((fetch_cons s _ rest hp).trans (coreTurn_busy { s with port := rest } h))

/-- Settles O9: the command run is the one of code PENDING_CMD; while IDLE none is run. -/
theorem stepRunsThePendingCommand : Obligations.StepRunsThePendingCommand := by
  intro s rest hp
  exact ⟨fun hbusy => ⟨_, instrOfCode_code _ _, step_core_turn_exec s rest hbusy hp⟩,
    fun hidle => step_core_turn_idle s rest hidle hp⟩

/-! ### A command from start to completion -/

/-- s after the start of command i, on the Core's turn and with these inputs left. -/
def State.started (s : State) (i : Instr) (rest : List Event) : State :=
  { startCommand i.code { s with ie := i.ie, cmd := i.code } with port := rest, turn := .core }

/-- A command word written while IDLE and the turn of the Core after it: the command starts and completes. -/
theorem run_start_complete (n : Nat) (s t : State) (v : Word) (i : Instr) (rest : List Event) (hidle : s.phase = .idle)
    (hd : decode v = .ok i) (hp : s.port = .bus (.write 2 v) :: .core :: rest)
    (hdone : completeOf i (s.started i rest) = t) : core.run (n + 2) s = core.run n t := by
  have hstart := (stepRunsTheWrittenCommand s v i (.core :: rest) hp hd).trans (exec_start_idle i _ ⟨rfl, hidle⟩)
  have hturn := step_core_turn_busy _ rest
    (startCommand_phase i.code { s with port := .core :: rest, turn := .host, ie := i.ie, cmd := i.code }) rfl
  rw [startCommand_pendingCmd, startCommand_ie, instrOfCode_of_code] at hturn
  exact (run_succ_next s _ (n + 1) hstart).trans (run_succ_next _ t n (hturn.trans (congrArg _ hdone)))

end Sys2Proof.Machine
end

section
/-! The completions of GEN, of ZEROIZE and of the reserved commands, and how they relate to those of HMAC and TRUNC
(42_generate_zeroize.md R175 to R185). -/

namespace Sys2Proof.Machine

/-! ### The reserved commands (R185) -/

/-- Settles O25: the four share one completion, which looks at no operand. -/
theorem reservedCompletesWithErrCmd : Obligations.ReservedCompletesWithErrCmd :=
  fun ie s hdue =>
    ⟨exec_complete (.reserved0 ie) s hdue, exec_complete (.reserved5 ie) s hdue, exec_complete (.reserved6 ie) s hdue,
      exec_complete (.reserved7 ie) s hdue⟩

/-! ### GEN (R175) -/

/-- Settles O22: GEN stores the digest's 20 bytes and the results that TRUNC would write from them. -/
theorem genWritesDigestAndCode : Obligations.GenWritesDigestAndCode := by
  intro ie s hdue hk hd
  have hbytes := storeDigest_bytes s.hmacDigest s (hmacSha1_length _ _)
  exact ⟨_, s.hmacDigest, exec_gen_legal ie s hdue hk hd, rfl, hbytes,
    writeTruncResults_off_toNat s.hmacDigest s.digitCount s, writeTruncResults_trunc_toNat s.hmacDigest s.digitCount s,
    writeTruncResults_codeVal_toNat s.hmacDigest s.digitCount s,
    writeTruncResults_codeChars s.hmacDigest s.digitCount s hd.2, rfl, rfl, rfl, rfl⟩

/-! ### GEN against HMAC and then TRUNC (R176) -/

/-- s after an HMAC without error, from its start to its completion, with these inputs left. -/
def State.hashed (s : State) (rest : List Event) : State :=
  finish errNone (storeDigest s.hmacDigest (s.started (.hmac false) rest))

theorem hashed_digestBytes (s : State) (rest : List Event) : (s.hashed rest).digestBytes = s.hmacDigest :=
  storeDigest_bytes s.hmacDigest (s.started (.hmac false) rest) (hmacSha1_length _ _)

section Runs
variable {n : Nat} {s : State} {rest : List Event} (hidle : s.phase = .idle)
include hidle

/-- GEN from its word to its completion. -/
theorem run_gen (hp : s.port = .bus (.write 2 0x11) :: .core :: rest) (hk : KeyLenLegal s) (hd : DigitsLegal s) :
    core.run (n + 2) s = core.run n (finish errNone (writeTruncResults (truncFormat s.hmacDigest s.digitCount)
      (storeDigest s.hmacDigest (s.started (.gen false) rest)))) :=
  run_start_complete n s _ _ (.gen false) rest hidle (decode_encode (.gen false)) hp
    (completeGen_ok _ false ((keyLegal_iff _).mpr hk) ((digitsLegal_iff _).mpr hd))

/-- HMAC from its word to its completion. -/
theorem run_hmac (hp : s.port = .bus (.write 2 0x21) :: .core :: rest) (hk : KeyLenLegal s) :
    core.run (n + 2) s = core.run n (s.hashed rest) :=
  run_start_complete n s _ _ (.hmac false) rest hidle (decode_encode (.hmac false)) hp
    (completeHmac_ok _ false ((keyLegal_iff _).mpr hk))

/-- TRUNC from its word to its completion, on a digest of bytes D. -/
theorem run_trunc (hp : s.port = .bus (.write 2 0x31) :: .core :: rest) (hd : DigitsLegal s) {D : List Byte}
    (hD : s.digestBytes = D) :
    core.run (n + 2) s =
      core.run n (finish errNone (writeTruncResults (truncFormat D s.digitCount) (s.started (.trunc false) rest))) := by
  subst hD
  exact run_start_complete n s _ _ (.trunc false) rest hidle (decode_encode (.trunc false)) hp
    (completeTrunc_ok _ false ((digitsLegal_iff _).mpr hd))

/-- HMAC and then TRUNC: TRUNC reads back the digest that HMAC stored. -/
theorem run_hmac_trunc
    (hp : s.port = .bus (.write 2 0x21) :: .core :: .bus (.write 2 0x31) :: .core :: rest)
    (hk : KeyLenLegal s) (hd : DigitsLegal s) :
    core.run (n + 4) s = core.run n (finish errNone (writeTruncResults (truncFormat s.hmacDigest s.digitCount)
      ((s.hashed (.bus (.write 2 0x31) :: .core :: rest)).started (.trunc false) rest))) :=
  (run_hmac hidle hp hk).trans (run_trunc (s := s.hashed _) rfl rfl hd (hashed_digestBytes s _))

end Runs

/-- Settles O31: both ways truncate the digest of the same secret and counter. -/
theorem genEqualsHmacThenTrunc : Obligations.GenEqualsHmacThenTrunc := by
  intro s hidle hk hd
  have hgen := run_gen (n := 0) (s := { s with port := [.bus (.write 2 0x11), .core] }) hidle rfl hk hd
  have hhmacTrunc := run_hmac_trunc (n := 0)
    (s := { s with port := [.bus (.write 2 0x21), .core, .bus (.write 2 0x31), .core] }) hidle rfl hk hd
  exact ⟨_, _, hgen, hhmacTrunc, rfl, rfl, rfl, rfl, rfl, rfl, rfl⟩

/-! ### ZEROIZE (R180) -/

/-- The completion of ZEROIZE looks at no operand. -/
theorem exec_zeroize_due (ie : Bool) (s : State) (hdue : CompletionDue s) :
    exec (.zeroize ie) s = .next (finish errNone (clearSecrets s)) :=
  exec_complete (.zeroize ie) s hdue

/-- Settles O24: `clearSecrets` writes each zero, and nothing that is to stay. -/
theorem zeroizeClearsKeyAndResults : Obligations.ZeroizeClearsKeyAndResults := by
  intro ie s hdue
  refine ⟨_, exec_zeroize_due ie s hdue, fun j => ?key, rfl, fun j => ?digest, rfl, rfl, rfl, fun j => ?chr, rfl,
    rfl, rfl, rfl⟩
  case key | digest | chr => simp

/-! ### What is left after ZEROIZE (R180, corner cases) -/

theorem not_keyLenLegal_of_zero {s : State} (h : s.keyLen = 0) : ¬ KeyLenLegal s := by
  simp [KeyLenLegal, h]

theorem exec_gen_illegal_keyLen (ie : Bool) (s : State) (hdue : CompletionDue s) (hk : ¬ KeyLenLegal s) :
    exec (.gen ie) s = .next (raiseError .secret s) := by
  rw [exec_complete _ s hdue]
  simp [completeOf, completeGen, keyLegal_iff, hk]

theorem exec_hmac_illegal_keyLen (ie : Bool) (s : State) (hdue : CompletionDue s) (hk : ¬ KeyLenLegal s) :
    exec (.hmac ie) s = .next (raiseError .secret s) := by
  rw [exec_complete _ s hdue]
  simp [completeOf, completeHmac, keyLegal_iff, hk]

theorem dec_zero (d : Nat) : dec 0 d = List.replicate d 0x30 := by
  simp [dec]

theorem truncatedOf_zeros_mod (d : Nat) : truncatedOf (List.replicate 20 0) % 10 ^ d = 0 := Nat.zero_mod _

/-- TRUNC of a digest of zero bytes gives code 0, spelt in the digits '0'. -/
theorem exec_trunc_zeros (ie : Bool) (s : State) (hdue : CompletionDue s) (hd : DigitsLegal s)
    (hzeros : s.digestBytes = List.replicate 20 0) :
    ∃ u, exec (.trunc ie) s = .next u ∧ u.errCode = 0 ∧ u.codeVal = 0 ∧
      u.codeChars = List.replicate s.digits.toNat 0x30 ++ List.replicate (12 - s.digits.toNat) 0 := by
  have hval := writeTruncResults_codeVal_toNat s.digestBytes s.digitCount s
  have hchars := writeTruncResults_codeChars s.digestBytes s.digitCount s hd.2
  rw [hzeros, truncatedOf_zeros_mod] at hval hchars
  rw [codeBuffer, dec_zero] at hchars
  refine ⟨_, exec_trunc_legal ie s hdue hd, rfl, ?_, ?_⟩
  · rw [hzeros]; exact BitVec.eq_of_toNat_eq hval
  · rw [hzeros]; exact hchars

/-- Settles O30: ZEROIZE leaves KEY_LEN 0, which is illegal, and a digest of zero bytes, which truncates to 0. -/
theorem afterZeroizeNoKeyIsLeft : Obligations.AfterZeroizeNoKeyIsLeft := by
  intro ie s t hdue ht
  cases ht.symm.trans (exec_zeroize_due ie s hdue)
  have hkey := not_keyLenLegal_of_zero (clearSecrets_keyLen s)
  exact ⟨⟨_, exec_gen_illegal_keyLen ie _ ⟨hdue.1, rfl⟩ hkey, rfl⟩,
    ⟨_, exec_hmac_illegal_keyLen ie _ ⟨hdue.1, rfl⟩ hkey, rfl⟩,
    fun hd => exec_trunc_zeros ie _ ⟨hdue.1, rfl⟩ hd rfl⟩

end Sys2Proof.Machine
end

section
/-! Pieces of `generate` on an idle block (30_encoding.md R88, R89): the operand writes, a command from its start to the
end of WAITDONE, CHECK, ACK and READCODE. -/

namespace Sys2Proof.Machine

/-! ### Operand writes -/

/-- `WR` to a data register of an idle block stores the low 32 bits of the value (R63). -/
theorem run_wr_data (h : HostRun) (r : Reg) (e : HExpr) (v : BitVec 64) (hi : h.block.phase = .idle)
    (he : e.eval h.vars = .ok v) (h1 : r ≠ .ctrl) (h2 : r ≠ .status) :
    (Script.wr r.index e).run h =
      .go { h with block := storeReg r (v.setWidth 32) { h.block with turn := .host }, sched := h.sched.tail } := by
  rw [run_wr h _ e v hi he, busWrite_index r _ _ h1 h2, dataWrite_idle r _ { h.block with turn := .host } hi]

/-- SETCTR of a fixed counter. -/
theorem run_setCtr (c : BitVec 64) (h : HostRun) (hi : h.block.phase = .idle) :
    (setCtr (.lit c)).run h =
      .go { h with
        block := { h.block with
          counterHi := (c >>> 32).setWidth 32, counterLo := (c &&& 0xFFFFFFFF).setWidth 32, turn := .host }
        sched := h.sched.tail.tail } :=
  run_seq _ _ h _ _ (run_wr_data h .counterHi _ (c >>> 32) hi rfl (by simp) (by simp))
    (run_wr_data _ .counterLo _ (c &&& 0xFFFFFFFF) hi rfl (by simp) (by simp))

/-- The two words that SETCTR writes are the counter's halves (R37). -/
theorem counter_halves (c : BitVec 64) : (c >>> 32).setWidth 32 ++ (c &&& 0xFFFFFFFF).setWidth 32 = c := by
  have hlo : (c &&& 0xFFFFFFFF).setWidth 32 = c.setWidth 32 := by
    rw [BitVec.setWidth_and]; exact BitVec.and_allOnes
  rw [hlo]
  ext i hi
  simp only [BitVec.getElem_append, BitVec.getElem_setWidth, BitVec.getLsbD_ushiftRight]
  split
  · exact BitVec.getLsbD_eq_getElem hi
  · rw [Nat.add_sub_cancel' (by omega)]; exact BitVec.getLsbD_eq_getElem hi

/-- SETDIG of a digit count. -/
theorem run_setDig (n : Nat) (h : HostRun) (hi : h.block.phase = .idle) :
    (setDig n).run h =
      .go { h with
        block := { h.block with digits := (BitVec.ofNat 32 n).setWidth 8, turn := .host }
        sched := h.sched.tail } :=
  run_wrLit h .digits _ hi (by simp) (by simp)

/-- t is idle and its operand registers hold the driver's secret and digit count, and the counter c. -/
structure OperandsLoaded (d : Driver) (c : BitVec 64) (t : State) : Prop where
  idle : t.phase = .idle
  secret_eq : t.secret = d.secret
  keyLen_eq : t.keyLen.toNat = d.secret.length
  counter_eq : t.counter = c
  digits_eq : t.digits.toNat = d.digits

/-- The operand writes of `generate` (R206). -/
theorem run_operands (d : Driver) (c : BitVec 64) (h : HostRun) (hv : d.Valid) (hi : h.block.phase = .idle) :
    ∃ h', (Script.all [loadKey d.secret, setCtr (.lit c), setDig d.digits]).run h = .go h' ∧
      OperandsLoaded d c h'.block ∧ h'.block.port = h.block.port := by
  obtain ⟨hK1, hK64, -, hd10⟩ := hv
  obtain ⟨h1, hload, hsecret, hi1, hlen, hframe⟩ := loadKeyMakesTheSecret d.secret h hK1 hK64 hi
  have hport : h1.block.port = h.block.port := (congrArg State.port hframe :)
  have hdig : ((BitVec.ofNat 32 d.digits).setWidth 8).toNat = d.digits := by
    have hd : d.digits ≤ 10 := hd10
    simp; omega
  exact ⟨_, run_all_cons _ _ h h1 _ hload (run_all_cons _ _ _ _ _ (run_setCtr c h1 hi1)
    (run_all_cons _ [] _ _ _ (run_setDig _ _ hi1) rfl)), ⟨hi1, hsecret, hlen, counter_halves c, hdig⟩, hport⟩

/-! ### A command and WAITDONE -/

/-- A command word written by a script to an idle block starts the command (R170). -/
theorem run_commandScript (i : Instr) (h : HostRun) (hi : h.block.phase = .idle) :
    (commandScript i).run h =
      .go { h with block := { h.block.started i h.block.port with turn := .host }, sched := h.sched.tail } := by
  have hv : ((encode i).setWidth 64).setWidth 32 = encode i := by simp
  have hw : busWrite Reg.ctrl.index (encode i) { h.block with turn := .host } =
      ctrlWrite (encode i) { h.block with turn := .host } := rfl
  rw [commandScript, wrLit, run_wr h _ _ _ hi rfl, hv, hw, ctrlWrite_idle _ { h.block with turn := .host } hi,
    startBit_encode, cmdField_encode, ieField_encode, if_pos rfl]
  rfl

/-- A completion looks at neither the turn nor the read output. -/
theorem completeOf_turn_rdata (i : Instr) (s : State) (a : Agent) (r : Word) :
    completeOf i { s with turn := a, rdata := r } = { completeOf i s with turn := a, rdata := r } := by
  rw [completeOf_congr i i rfl s { s with turn := a, rdata := r } rfl]
  simp only [← completeOf_ie i s, ← completeOf_wovr i s, ← completeOf_draws i s, ← completeOf_port i s]

/-- s after the pending command's completion, with the read output of the poll that saw it. -/
def State.completed (s : State) (r : Word) : State :=
  { completeOf (instrOfCode s.pendingCmd s.ie) s with turn := .host, rdata := r }

/-- A read of STATUS by the Host. -/
theorem feed_read_status (s : State) :
    feed (.bus (.read 3)) s = .ok { s with turn := .host, rdata := s.statusWord } := by
  rw [feed_read, performRead_status]; rfl

/-- A STATUS read before which the Core takes its turn shows the completion. -/
theorem transact_core_status (s : State) (h : s.phase = .busy) :
    ∃ r, transact true (.read 3) s = .ok (s.completed r) ∧ r &&& 0x3 = 0x2 := by
  obtain ⟨hidle, hdone⟩ := completeOf_ends (instrOfCode s.pendingCmd s.ie) { s with turn := .core }
  refine ⟨(completeOf (instrOfCode s.pendingCmd s.ie) { s with turn := .core }).statusWord, ?_, ?_⟩
  · rw [transact, if_pos rfl, feed_core_busy s h]
    simp only [feed_read_status]
    rw [completeOf_turn_rdata (instrOfCode s.pendingCmd s.ie) s .core s.rdata]
    rfl
  · rw [statusWord_low, hidle, hdone]; rfl

/-- WAITDONE on a BUSY block ends at the completion, by induction on the schedule: a poll before the completion leaves the
block BUSY and reads BUSY = 1. -/
theorem pollLoop_busy (sched : List Bool) (s : State) (hb : s.phase = .busy) :
    ∃ r rest, pollLoop 3 0x3 0x2 sched s = .ok (s.completed r, rest) := by
  induction sched generalizing s with
  | nil =>
    obtain ⟨r, hr, hdone⟩ := transact_core_status s hb
    exact ⟨r, [], by simp only [pollLoop, hr]; exact if_pos hdone⟩
  | cons b sched ih =>
    cases b with
    | true =>
      obtain ⟨r, hr, hdone⟩ := transact_core_status s hb
      exact ⟨r, sched, by simp only [pollLoop, hr]; exact if_pos hdone⟩
    | false =>
      have hread : transact false (.read 3) s = .ok { s with turn := .host, rdata := s.statusWord } :=
        feed_read_status s
      have hbusy : s.statusWord &&& 0x3 ≠ 0x2 := by
        rw [statusWord_low, hb]; cases s.done <;> decide
      obtain ⟨r, rest, hpoll⟩ := ih { s with turn := .host, rdata := s.statusWord } hb
      refine ⟨r, rest, ?_⟩
      simp only [pollLoop, hread, if_neg hbusy]
      rw [hpoll, State.completed, State.completed, completeOf_turn_rdata]

theorem run_waitDone (h : HostRun) (hb : h.block.phase = .busy) :
    ∃ r rest, waitDone.run h = .go { h with block := h.block.completed r, sched := rest } := by
  obtain ⟨r, rest, hpoll⟩ := pollLoop_busy h.sched h.block hb
  exact ⟨r, rest, by simp only [waitDone, Script.run, show Reg.status.index = 3 from rfl, hpoll]⟩

/-- The pending command of a block just started is that command. -/
theorem completed_started (i : Instr) (s : State) (r : Word) :
    ({ s.started i s.port with turn := .host } : State).completed r =
      { completeOf i (s.started i s.port) with turn := .host, rdata := r } := by
  have hi : instrOfCode (s.started i s.port).pendingCmd (s.started i s.port).ie = i := instrOfCode_of_code i
  simp only [State.completed, hi]
  rw [completeOf_turn_rdata i (s.started i s.port) .host (s.started i s.port).rdata]

/-- A command from its word to the end of WAITDONE, after any number of polls. -/
theorem run_command_waitDone (i : Instr) (h : HostRun) (hi : h.block.phase = .idle) :
    ∃ r rest, (Script.all [commandScript i, waitDone]).run h =
      .go { h with
        block := { completeOf i (h.block.started i h.block.port) with turn := .host, rdata := r }
        sched := rest } := by
  obtain ⟨r, rest, hwait⟩ := run_waitDone
    { h with block := { h.block.started i h.block.port with turn := .host }, sched := h.sched.tail } rfl
  rw [completed_started i h.block r] at hwait
  exact ⟨r, rest, run_all_cons _ _ _ _ _ (run_commandScript i h hi) (run_all_cons _ [] _ _ _ hwait rfl)⟩

/-! ### CHECK, ACK and READCODE -/

/-- ERR_CODE as CHECK takes it out of a STATUS word (R89). -/
theorem statusWord_errCode (s : State) :
    (s.statusWord.setWidth 64 >>> 4) &&& 0xF = s.errCode.setWidth 64 := by
  rw [statusWord_eq]
  generalize s.errCode = c
  generalize s.wovr = b
  generalize s.done = d
  cases s.phase <;> (revert b d c; decide)

theorem run_checkErr (e : String) (h : HostRun) (hi : h.block.phase = .idle) :
    (checkErr e).run h =
      .go { h with
        block := { h.block with turn := .host, rdata := h.block.statusWord }
        vars := (e, h.block.errCode.setWidth 64) :: ("s", h.block.statusWord.setWidth 64) :: h.vars
        sched := h.sched.tail } := by
  rw [← statusWord_errCode]
  have hrd := run_rd h Reg.status.index "s" hi
  rw [show Reg.status.index = 3 from rfl, busRead_status] at hrd
  exact run_seq _ _ h _ _ hrd rfl

/-- ACK on an idle block (R65). -/
theorem run_ack (h : HostRun) (hi : h.block.phase = .idle) :
    ackScript.run h =
      .go { h with
        block := { h.block with done := false, wovr := false, turn := .host }
        sched := h.sched.tail } :=
  run_wr h _ _ 0x6 hi rfl

/-- `RD` of a register of an idle block (R62). -/
theorem run_rd_reg (h : HostRun) (r : Reg) (x : String) (hi : h.block.phase = .idle) :
    (Script.rd r.index x).run h =
      .go { h with
        block := { h.block with turn := .host, rdata := h.block.readReg r }
        vars := (x, (h.block.readReg r).setWidth 64) :: h.vars
        sched := h.sched.tail } := by
  have hr : busRead r.index h.block = h.block.readReg r := by
    rw [busRead, readDraws_idle _ _ hi, regAt_index]; rfl
  rw [run_rd h _ x hi, hr]

/-- READCODE on an idle block. -/
theorem run_readCode (h : HostRun) (hi : h.block.phase = .idle) :
    readCode.run h =
      .go { block := { h.block with turn := .host, rdata := h.block.codeVal }
            vars := ("val", h.block.codeVal.setWidth 64) :: ("c2", (h.block.codeChr[2]).setWidth 64) ::
              ("c1", (h.block.codeChr[1]).setWidth 64) :: ("c0", (h.block.codeChr[0]).setWidth 64) :: h.vars
            sched := h.sched.tail.tail.tail.tail } :=
  run_all_cons _ _ h _ _ (run_rd_reg h (.codeChr 0) "c0" hi) (run_all_cons _ _ _ _ _ (run_rd_reg _ (.codeChr 1) "c1" hi)
    (run_all_cons _ _ _ _ _ (run_rd_reg _ (.codeChr 2) "c2" hi)
      (run_all_cons _ [] _ _ _ (run_rd_reg _ .codeVal "val" hi) rfl)))

/-- The end of `generate` without an error, its ACK before or after the result reads (R206, R275). -/
theorem run_resultScripts (o : AckOrder) (h : HostRun) (hi : h.block.phase = .idle) (he : lookup "e" h.vars = some 0) :
    ∃ r h', (Script.all (resultScripts o)).run h = .go h' ∧
      h'.block = { h.block with done := false, wovr := false, turn := .host, rdata := r } ∧
      lookup "c0" h'.vars = some ((h.block.codeChr[0]).setWidth 64) ∧
      lookup "c1" h'.vars = some ((h.block.codeChr[1]).setWidth 64) ∧
      lookup "c2" h'.vars = some ((h.block.codeChr[2]).setWidth 64) := by
  have hif : ∀ (body : Script) (g : HostRun), g.vars = h.vars →
      (Script.ifThen (.not (.eq (.var "e") (.lit 0))) body).run g = .go g := by
    intro body g hg
    simp [Script.run, HCond.eval, HExpr.eval, hg, he]
  cases o with
  | beforeResults =>
    exact ⟨_, _, run_all_cons _ _ h _ _ (run_ack h hi) (run_all_cons _ _ _ _ _ (hif _ _ rfl)
      (run_all_cons _ [] _ _ _ (run_readCode _ hi) rfl)), rfl, rfl, rfl, rfl⟩
  | afterResults =>
    exact ⟨_, _, run_all_cons _ _ h _ _ (hif _ h rfl) (run_all_cons _ _ _ _ _ (run_readCode h hi)
      (run_all_cons _ [] _ _ _ (run_ack _ hi) rfl)), rfl, rfl, rfl, rfl⟩

end Sys2Proof.Machine
end

section
/-! What the Clock, the driver's construction and the verification window say of their numbers
(45_host_procedures.md R200 to R208). -/

namespace Sys2Proof.Machine

/-! ### The Clock and the driver (R200 to R204) -/

theorem Clock.construct_ok (step : Nat) (h : 0 < step) : Clock.construct step = .ok (.system step) := by
  rw [Clock.construct, if_neg (by omega)]; rfl

/-- The system clock from the epoch on (R200). -/
theorem Clock.currentInterval_system (step t : Nat) (h : t / step < 2 ^ 64) :
    (Clock.system step).currentInterval t = .ok (BitVec.ofNat 64 (t / step)) := by
  simp only [Clock.currentInterval, Int.toNat_natCast]
  rw [if_neg (by omega)]

/-- Settles O49: construction looks at the sign of the step, and the clock at the sign of the time and the size of t / STEP. -/
theorem clockCountsWholeSteps : Obligations.ClockCountsWholeSteps := by
  refine ⟨rfl, fun step h => if_pos h, fun step t hstep hfits => ?_, ?_⟩
  · exact ⟨_, Clock.construct_ok step hstep, _, Clock.currentInterval_system step t hfits,
      BitVec.toNat_ofNat _ _ ▸ Nat.mod_eq_of_lt hfits⟩
  · rintro k step t rfl ht
    exact if_pos (.inl ht)

/-- With a non-empty secret, construction goes by the digit count and then by the secret's length (R204). -/
theorem Driver.construct_nonempty {K : List Byte} (hK : K ≠ []) (n : Int) (k : Clock) (p : Bool) (o : AckOrder) :
    Driver.construct (some K) n k p o =
      if n < 1 ∨ 10 < n then .error .invalidConfiguration
      else if K.length ≤ 64 then .ok { secret := K, digits := n.toNat, clock := k, ackOrder := o }
      else if p then .ok { secret := sha1 K, digits := n.toNat, clock := k, ackOrder := o }
      else .error .invalidSecret := by
  cases K with
  | nil => exact absurd rfl hK
  | cons b K => rfl

/-- What is constructed is valid: a secret of 1 to 64 bytes, or a SHA-1 of 20 (R117). -/
theorem Driver.valid_of_construct {K : Option (List Byte)} {n : Int} {k : Clock} {p : Bool} {o : AckOrder} {d : Driver}
    (h : Driver.construct K n k p o = .ok d) : d.Valid := by
  have valid : ∀ (S : List Byte), 1 ≤ S.length → S.length ≤ 64 → ¬(n < 1 ∨ 10 < n) →
      ({ secret := S, digits := n.toNat, clock := k, ackOrder := o } : Driver).Valid := by
    intro S h1 h64 hn
    exact ⟨h1, h64, by simp only; omega, by simp only [Config.digitsMax]; omega⟩
  match K with
  | none => cases h
  | some [] => cases h
  | some (b :: K) =>
    rw [Driver.construct_nonempty (List.cons_ne_nil b K)] at h
    split at h
    · cases h
    · next hn =>
      split at h
      · next h64 => cases h; exact valid _ (by simp) h64 hn
      · split at h
        · cases h; exact valid _ (by simp) (by simp) hn
        · cases h

/-- Settles O50: the checks one after another, as `Driver.construct` makes them. -/
theorem driverChecksAtConstruction : Obligations.DriverChecksAtConstruction := by
  refine ⟨fun n k p o => ⟨rfl, rfl⟩, fun K n k p o hK hn => ?_, fun K n k p o hK h64 h1 h10 => ?_,
    fun K n k p o d h => Driver.valid_of_construct h⟩
  · rw [Driver.construct_nonempty hK, if_pos (.inl hn)]
  · rw [Driver.construct_nonempty hK, if_neg (by omega), if_pos h64]
    exact ⟨_, rfl, rfl, by simp only; omega, rfl, rfl⟩

/-! ### The window (R208) -/

theorem window_default (c : BitVec 64) : window 1 0 c = [c - 1, c] := by
  simp [window, List.range_succ]

/-- A counter of the window, as a number. -/
theorem window_counter_toNat (lookback i : Nat) (c : BitVec 64) :
    ((c - BitVec.ofNat 64 lookback + BitVec.ofNat 64 i).toNat : Int) =
      ((c.toNat : Int) + ((i : Int) - lookback)) % 2 ^ 64 := by
  simp only [BitVec.toNat_add, BitVec.toNat_sub, BitVec.toNat_ofNat]
  omega

/-- Settles O51: k is the place in the window less LOOKBACK. -/
theorem windowHoldsItsCounters : Obligations.WindowHoldsItsCounters := by
  refine ⟨window_default, fun lookback lookahead c g => ?_⟩
  simp only [window, List.mem_map, List.mem_range]
  constructor
  · rintro ⟨i, hi, rfl⟩
    exact ⟨(i : Int) - lookback, by omega, by omega, window_counter_toNat lookback i c⟩
  · rintro ⟨k, hk, hk', hg⟩
    refine ⟨(k + lookback).toNat, by omega, BitVec.eq_of_toNat_eq ?_⟩
    have hcast : (((k + lookback).toNat : Int) - lookback) = k := by omega
    have hw := window_counter_toNat lookback (k + lookback).toNat c
    rw [hcast, ← hg] at hw
    exact_mod_cast hw

end Sys2Proof.Machine
end

section
/-! `generate` and `verify` of a valid driver on an idle block (45_host_procedures.md R206 to R214). -/

namespace Sys2Proof.Machine

/-! ### `generate` (R206) -/

theorem codeChars_eq (s : State) :
    s.codeChars = be4 (s.codeChr[0]) ++ be4 (s.codeChr[1]) ++ be4 (s.codeChr[2]) := by
  unfold State.codeChars
  generalize s.codeChr = v
  match v with
  | ⟨⟨[_, _, _]⟩, _⟩ => rfl

/-- The Code string is the first bytes of CODECHARS (R42, R206). -/
theorem codeString_codeChr (n : Nat) (s : State) :
    codeString n ((s.codeChr[0]).setWidth 64) ((s.codeChr[1]).setWidth 64) ((s.codeChr[2]).setWidth 64) =
      s.codeChars.take n := by
  simp [codeString, codeChars_eq]

/-- `codeBuffer` begins with the digits (R143). -/
theorem codeBuffer_take (code n : Nat) : (codeBuffer code n).take n = dec code n :=
  List.take_left' (dec_length code n)

/-- The results that GEN writes hold the Code string (R144). -/
theorem writeTruncResults_code (K : List Byte) (c : BitVec 64) (n : Nat) (s : State) (hn : n ≤ 10) :
    (writeTruncResults (truncFormat (hmacSha1 K (beBytes8 c)) n) s).codeChars.take n = hotpCode K c n := by
  rw [writeTruncResults_codeChars _ _ _ hn, codeBuffer_take, ← reduceCode_eq]; rfl

theorem finish_codeChars (e : BitVec 4) (s : State) : (finish e s).codeChars = s.codeChars := rfl

/-- GEN on the operands of a valid driver completes without error, and CODECHARS begins with the Code (R175). -/
theorem OperandsLoaded.completeOf_gen {d : Driver} {c : BitVec 64} {s : State} (hs : OperandsLoaded d c s)
    (hv : d.Valid) (ie : Bool) (rest : List Event) :
    (completeOf (.gen ie) (s.started (.gen ie) rest)).errCode = 0 ∧
      (completeOf (.gen ie) (s.started (.gen ie) rest)).codeChars.take d.digits = hotpCode d.secret c d.digits := by
  obtain ⟨hK1, hK64, hd1, hd10⟩ := hv
  have hk : KeyLenLegal (s.started (.gen ie) rest) := ⟨hs.keyLen_eq ▸ hK1, hs.keyLen_eq ▸ hK64⟩
  have hd : DigitsLegal (s.started (.gen ie) rest) := ⟨hs.digits_eq ▸ hd1, hs.digits_eq ▸ hd10⟩
  have hdigest : (s.started (.gen ie) rest).hmacDigest = hmacSha1 d.secret (beBytes8 c) :=
    congrArg₂ (fun K c => hmacSha1 K (beBytes8 c)) hs.secret_eq hs.counter_eq
  have hcount : (s.started (.gen ie) rest).digitCount = d.digits := hs.digits_eq
  rw [completeGen_ok _ ie ((keyLegal_iff _).mpr hk) ((digitsLegal_iff _).mpr hd), hdigest, hcount]
  exact ⟨rfl, by rw [finish_codeChars, writeTruncResults_code _ _ _ _ hd10]⟩

/-- `generate` from its start of GEN to CHECK, after any number of polls: no error, and CODECHARS begins with the Code. -/
theorem run_gen_checkErr (d : Driver) (c : BitVec 64) (h : HostRun) (hv : d.Valid) (hs : OperandsLoaded d c h.block) :
    ∃ h', (Script.all [commandScript (.gen false), waitDone, checkErr "e"]).run h = .go h' ∧
      h'.block.phase = .idle ∧ h'.block.errCode = 0 ∧ h'.block.port = h.block.port ∧ lookup "e" h'.vars = some 0 ∧
      h'.block.codeChars.take d.digits = hotpCode d.secret c d.digits := by
  obtain ⟨r, rest, hgen⟩ := run_command_waitDone (.gen false) h hs.idle
  obtain ⟨herr, hcode⟩ := hs.completeOf_gen hv false h.block.port
  have hidle := (completeOf_ends (.gen false) (h.block.started (.gen false) h.block.port)).1
  exact ⟨_, run_all_append [commandScript (.gen false), waitDone] [checkErr "e"] h _ _ hgen
    (run_all_cons _ [] _ _ _ (run_checkErr "e" _ hidle) rfl), hidle, herr, completeOf_port _ _,
    congrArg (fun e : BitVec 4 => some (e.setWidth 64)) herr, hcode⟩

/-- Settles O53: the operands are loaded, GEN completes on them without error, and READCODE reads the Code. -/
theorem generateReturnsTheCode : Obligations.GenerateReturnsTheCode := by
  intro d c h hv hi
  obtain ⟨h1, hload, hs, hp1⟩ := run_operands d c h hv hi
  obtain ⟨h2, hgen, hi2, herr, hp2, he, hcode⟩ := run_gen_checkErr d c h1 hv hs
  obtain ⟨r, h3, hres, hblock, hc0, hc1, hc2⟩ := run_resultScripts d.ackOrder h2 hi2 he
  have hrun : (generateScript d c).run h = .go h3 :=
    run_all_append [loadKey d.secret, setCtr (.lit c), setDig d.digits] _ h h1 _ hload
      (run_all_append [commandScript (.gen false), waitDone, checkErr "e"] _ h1 h2 _ hgen hres)
  refine ⟨h3, ?_, hblock ▸ hi2, hblock ▸ rfl, hblock ▸ herr, hblock ▸ hp2.trans hp1⟩
  simp only [generate, hrun, hc0, hc1, hc2, codeString_codeChr, hcode]

/-! ### `verify` (R209) -/

/-- The loop over any counters, by induction on them: it never raises, and accepts exactly their codes. -/
theorem verifyLoop_accepts (d : Driver) (candidate : List Byte) (hv : d.Valid) (gs : List (BitVec 64)) (h : HostRun)
    (hi : h.block.phase = .idle) :
    ∃ b h', verifyLoop d candidate gs h = .ok b h' ∧
      (b = true ↔ ∃ g ∈ gs, hotpCode d.secret g d.digits = candidate) := by
  induction gs generalizing h with
  | nil => exact ⟨false, h, rfl, by simp⟩
  | cons g gs ih =>
    obtain ⟨h1, hgen, hi1, -⟩ := generateReturnsTheCode d g h hv hi
    by_cases hcode : hotpCode d.secret g d.digits = candidate
    · exact ⟨true, h1, by simp only [verifyLoop, hgen, if_pos hcode], by simp [hcode]⟩
    · obtain ⟨b, h2, hloop, hb⟩ := ih h1 hi1
      exact ⟨b, h2, by simp only [verifyLoop, hgen, if_neg hcode, hloop], by simp [hb, hcode]⟩

/-- Settles O54: the loop over the counters of the window. -/
theorem verifyAcceptsExactlyTheWindow : Obligations.VerifyAcceptsExactlyTheWindow := by
  intro d t candidate h c hv hi hc
  obtain ⟨b, h', hloop, hb⟩ := verifyLoop_accepts d candidate hv (window d.lookback d.lookahead c) h hi
  exact ⟨b, h', by simp only [verify, hc, hloop], hb⟩

/-! ### Acceptance with the default window (R213, R214) -/

/-- With the default window the counters checked are c - 1 and c. -/
theorem verify_default_window (d : Driver) (t : Int) (candidate : List Byte) (h : HostRun) (c : BitVec 64) (hv : d.Valid)
    (hback : d.lookback = 1) (hahead : d.lookahead = 0) (hi : h.block.phase = .idle)
    (hc : d.clock.currentInterval t = .ok c) :
    ∃ b h', verify d t candidate h = .ok b h' ∧
      (b = true ↔ candidate = hotpCode d.secret c d.digits ∨ candidate = hotpCode d.secret (c - 1) d.digits) := by
  obtain ⟨b, h', hverify, hb⟩ := verifyAcceptsExactlyTheWindow d t candidate h c hv hi hc
  refine ⟨b, h', hverify, hb.trans ?_⟩
  rw [hback, hahead, window_default]
  simp [eq_comm, or_comm]

/-- Settles O55: the window is {c - 1, c}, and c - g is 0 or 1 exactly when g is in it. -/
theorem acceptanceInCounterTerms : Obligations.AcceptanceInCounterTerms := by
  intro d t h c g hv hback hahead hi hc
  obtain ⟨b, h', hverify, hb⟩ := verify_default_window d t (hotpCode d.secret g d.digits) h c hv hback hahead hi hc
  refine ⟨b, h', hverify, fun hnear => hb.mpr ?_, hb⟩
  obtain h0 | h1 := hnear
  · have hg : g = c := by bv_omega
    exact .inl (by rw [hg])
  · have hg : g = c - 1 := by bv_omega
    exact .inr (by rw [hg])

/-- Settles O56: verify's window is that of the counter terms, and t / 30 grows by at most 1 in 30 seconds. -/
theorem acceptanceInTimeTerms : Obligations.AcceptanceInTimeTerms := by
  intro d tg tv h h1 hv hback hahead hclock hle hfits hi hi1
  have hcg : d.clock.currentInterval tg = .ok (BitVec.ofNat 64 (tg / 30)) := by
    rw [hclock, Clock.currentInterval_system 30 tg (by omega)]
  have hcv : d.clock.currentInterval tv = .ok (BitVec.ofNat 64 (tv / 30)) := by
    rw [hclock, Clock.currentInterval_system 30 tv hfits]
  obtain ⟨h', hgen, -⟩ := generateReturnsTheCode d (BitVec.ofNat 64 (tg / 30)) h hv hi
  obtain ⟨b, h1', hverify, hnear, hb⟩ :=
    acceptanceInCounterTerms d tv h1 _ (BitVec.ofNat 64 (tg / 30)) hv hback hahead hi1 hcv
  have hstep : tv / 30 - tg / 30 ≤ 1 → b = true := by
    intro hdiff
    refine hnear ?_
    obtain heq | hsucc : tv / 30 = tg / 30 ∨ tv / 30 = tg / 30 + 1 := by omega
    · exact .inl (by rw [heq, BitVec.sub_self]; rfl)
    · exact .inr (by rw [hsucc, BitVec.ofNat_add, BitVec.add_comm, BitVec.add_sub_cancel]; rfl)
  refine ⟨h', h1', b, by simp only [now, hcg, hgen], hverify, hstep, fun _ => hstep (by omega), fun _ _ _ => ⟨?_, hb⟩⟩
  split <;> omega

end Sys2Proof.Machine
end

section
/-! How a completion ends: with one error, in the fixed order of 60_exceptions.md R233, and then with no register but
STATUS and PHASE changed (R234), or with its results written. -/

namespace Sys2Proof.Machine

/-! ### Illegal operands -/

theorem keyLegal_eq_false_iff (s : State) : s.keyLegal = false ↔ s.keyLen.toNat = 0 ∨ 64 < s.keyLen.toNat := by
  rw [Bool.eq_false_iff, Ne, keyLegal_iff, KeyLenLegal]; omega

theorem digitsLegal_eq_false_iff (s : State) : s.digitsLegal = false ↔ s.digits.toNat = 0 ∨ 10 < s.digits.toNat := by
  rw [Bool.eq_false_iff, Ne, digitsLegal_iff, DigitsLegal]; omega

/-! ### The error of a completion, and its results -/

/-- The error that the completion of command i raises: the first that applies, in the order of R233. -/
def errorOf (i : Instr) (s : State) : Option CmdError :=
  if i.code = 0 ∨ i.code = 5 ∨ i.code = 6 ∨ i.code = 7 then some .cmd
  else if (i.code = 1 ∨ i.code = 2) ∧ s.keyLegal = false then some .secret
  else if (i.code = 1 ∨ i.code = 3) ∧ s.digitsLegal = false then some .digits
  else none

/-- The result registers as the completion of command i writes them when it raises no error. -/
def writeResults : Instr → State → State
  | .gen _, s => writeTruncResults (truncFormat s.hmacDigest s.digitCount) (storeDigest s.hmacDigest s)
  | .hmac _, s => storeDigest s.hmacDigest s
  | .trunc _, s => writeTruncResults (truncFormat s.digestBytes s.digitCount) s
  | .zeroize _, s => clearSecrets s
  | .reserved0 _, s | .reserved5 _, s | .reserved6 _, s | .reserved7 _, s => s

/-- A completion raises its error and writes nothing, or writes its results without error (R171, R234). -/
theorem completeOf_cases (i : Instr) (s : State) :
    (∃ e, errorOf i s = some e ∧ completeOf i s = raiseError e s) ∨
      (errorOf i s = none ∧ completeOf i s = finish errNone (writeResults i s)) := by
  cases i with
  | reserved0 ie | reserved5 ie | reserved6 ie | reserved7 ie => exact .inl ⟨.cmd, rfl, rfl⟩
  | zeroize ie => exact .inr ⟨rfl, rfl⟩
  | hmac ie =>
    cases hk : s.keyLegal with
    | false => exact .inl ⟨.secret, by simp [errorOf, Instr.code, hk], by simp [completeOf, completeHmac, hk]⟩
    | true => exact .inr ⟨by simp [errorOf, Instr.code, hk], completeHmac_ok s ie hk⟩
  | trunc ie =>
    cases hd : s.digitsLegal with
    | false => exact .inl ⟨.digits, by simp [errorOf, Instr.code, hd], by simp [completeOf, completeTrunc, hd]⟩
    | true => exact .inr ⟨by simp [errorOf, Instr.code, hd], completeTrunc_ok s ie hd⟩
  | gen ie =>
    cases hk : s.keyLegal with
    | false => exact .inl ⟨.secret, by simp [errorOf, Instr.code, hk], by simp [completeOf, completeGen, hk]⟩
    | true =>
      cases hd : s.digitsLegal with
      | false =>
        exact .inl ⟨.digits, by simp [errorOf, Instr.code, hk, hd], by simp [completeOf, completeGen, hk, hd]⟩
      | true => exact .inr ⟨by simp [errorOf, Instr.code, hk, hd], completeGen_ok s ie hk hd⟩

theorem completeOf_of_error {i : Instr} {s : State} {e : CmdError} (h : errorOf i s = some e) :
    completeOf i s = raiseError e s := by
  obtain ⟨e', he', hc⟩ | ⟨hnone, -⟩ := completeOf_cases i s
  · cases h.symm.trans he'; exact hc
  · cases h.symm.trans hnone

theorem exec_of_error {i : Instr} {s : State} {e : CmdError} (hdue : CompletionDue s) (h : errorOf i s = some e) :
    exec i s = .next (raiseError e s) := by
  rw [exec_complete i s hdue, completeOf_of_error h]

/-- The code a completion reports is that of its error, or 0. -/
theorem completeOf_errCode (i : Instr) (s : State) :
    (completeOf i s).errCode = ((errorOf i s).map CmdError.code).getD errNone := by
  obtain ⟨e, he, hc⟩ | ⟨hnone, hc⟩ := completeOf_cases i s
  · rw [hc, he]; rfl
  · rw [hc, hnone]; rfl

/-- GEN and TRUNC without error have a legal DIGITS (R232). -/
theorem digitsLegal_of_no_error {i : Instr} {s : State} (h : errorOf i s = none) (hc : i.code = 1 ∨ i.code = 3) :
    DigitsLegal s := by
  rw [← digitsLegal_iff]
  unfold errorOf at h
  split_ifs at h with hcmd hsecret hdigits
  exact (Bool.not_eq_false _).mp fun hd => hdigits ⟨hc, hd⟩

/-- A completion that reports an error changes PHASE, DONE and ERR_CODE only (R234). -/
theorem completeOf_precise {i : Instr} {s : State} (h : (completeOf i s).errCode ≠ 0) :
    completeOf i s = { s with phase := .idle, done := true, errCode := (completeOf i s).errCode } := by
  obtain ⟨e, -, hc⟩ | ⟨-, hc⟩ := completeOf_cases i s
  · rw [hc]; rfl
  · rw [hc] at h; exact absurd rfl h

/-! ### The statements -/

/-- Settles O26: an illegal KEY_LEN comes before any error of DIGITS. -/
theorem illegalKeyLenRaisesErrSecret : Obligations.IllegalKeyLenRaisesErrSecret := by
  intro ie s hdue hk
  have hillegal : ¬ KeyLenLegal s := by unfold KeyLenLegal; omega
  exact ⟨exec_gen_illegal_keyLen ie s hdue hillegal, exec_hmac_illegal_keyLen ie s hdue hillegal⟩

/-- Settles O27: TRUNC looks at DIGITS only, and GEN at DIGITS once KEY_LEN is legal. -/
theorem illegalDigitsRaisesErrDigits : Obligations.IllegalDigitsRaisesErrDigits := by
  intro ie s hdue hd
  rw [← digitsLegal_eq_false_iff] at hd
  refine ⟨exec_of_error (e := .digits) hdue (by simp [errorOf, Instr.code, hd]), fun hk => ?_⟩
  rw [← keyLegal_iff] at hk
  exact exec_of_error (e := .digits) hdue (by simp [errorOf, Instr.code, hd, hk])

/-- Settles O28: `errorOf` has the checks in the order of the statement. -/
theorem errorPriorityIsFixed : Obligations.ErrorPriorityIsFixed := by
  intro i s hdue
  obtain ⟨hidle, hdone⟩ := completeOf_ends i s
  have hzero {x : BitVec 8} : x = 0 ↔ x.toNat = 0 := BitVec.toNat_inj.symm
  refine ⟨_, exec_complete i s hdue, hidle, hdone, ?_⟩
  simp only [completeOf_errCode, errorOf, keyLegal_eq_false_iff, digitsLegal_eq_false_iff, hzero]
  split_ifs <;> rfl

/-- Settles O29: `completeOf_precise`, alone and after the start of the command, which writes no register but STATUS and
CTRL. -/
theorem errorsArePrecise : Obligations.ErrorsArePrecise := by
  refine ⟨fun i s t hdue ht herr => ?completion, fun i s t v hidle hd ht herr => ?command⟩
  case completion =>
    cases ht.symm.trans (exec_complete i s hdue)
    exact completeOf_precise herr
  case command =>
    have hrun := run_start_complete 0 { s with port := [.bus (.write 2 v), .core] } _ v i [] hidle hd rfl rfl
    cases ht.symm.trans hrun
    rw [completeOf_precise herr]
    exact ⟨rfl, rfl, rfl, rfl, congrArg (fun p => { s with phase := p }) hidle.symm⟩

end Sys2Proof.Machine
end

section
/-! The invariant of the registers over every step, operation by operation (10_state.md R27, R30, R32;
41_truncation_format.md R145; 60_exceptions.md R230). -/

namespace Sys2Proof.Machine

/-! ### The result registers -/

/-- The code and its characters as TRUNC and GEN write them agree with TRUNC for the digit count used. -/
theorem resultsAgree_writeTruncResults (D : List Byte) (d : Nat) (s : State) (hd : d ≤ 10) :
    ResultsAgree (writeTruncResults (truncFormat D d) s) := by
  refine ⟨d, hd, ?_, ?_⟩
  · rw [writeTruncResults_codeVal_toNat, writeTruncResults_trunc_toNat]
  · rw [writeTruncResults_codeChars D d s hd, writeTruncResults_codeVal_toNat]

/-- Erased result registers agree, for the digit count 0. -/
theorem resultsAgree_of_erased {s : State} (hval : s.codeVal = 0) (hchr : s.codeChr = Vector.replicate 3 0) :
    ResultsAgree s := by
  refine ⟨0, Nat.zero_le _, ?_, ?_⟩
  · rw [hval, Nat.pow_zero, Nat.mod_one]; rfl
  · rw [State.codeChars, hchr, hval]; rfl

/-- What a completion without error writes agrees: the digit count of GEN and TRUNC is then legal. -/
theorem resultsAgree_writeResults {i : Instr} {s : State} (h : ResultsAgree s) (hnone : errorOf i s = none) :
    ResultsAgree (writeResults i s) := by
  cases i with
  | reserved0 ie | reserved5 ie | reserved6 ie | reserved7 ie | hmac ie => exact h
  | zeroize ie => exact resultsAgree_of_erased rfl rfl
  | gen ie => exact resultsAgree_writeTruncResults _ _ _ (digitsLegal_of_no_error hnone (.inl rfl)).2
  | trunc ie => exact resultsAgree_writeTruncResults _ _ _ (digitsLegal_of_no_error hnone (.inr rfl)).2

theorem resultsAgree_completeOf (i : Instr) (s : State) (h : ResultsAgree s) : ResultsAgree (completeOf i s) := by
  obtain ⟨e, -, hc⟩ | ⟨hnone, hc⟩ := completeOf_cases i s
  · rw [hc]; exact h
  · rw [hc]; exact resultsAgree_writeResults h hnone

/-! ### The operations -/

/-- While IDLE the invariant asks nothing of DONE and CMD. -/
theorem Inv.of_idle {s : State} (hidle : s.phase = .idle) (herr : s.errCode.toNat ≤ 3) (hres : ResultsAgree s) : Inv s where
  errCode_le := herr
  busy_not_done hb := by simp [hidle] at hb
  busy_no_error hb := by simp [hidle] at hb
  busy_cmd hb := by simp [hidle] at hb
  results := hres

/-- The invariant is one of the registers: the inputs and the turn are not among them. -/
theorem Inv.port_turn {s : State} (h : Inv s) (p : List Event) (a : Agent) : Inv { s with port := p, turn := a } :=
  ⟨h.errCode_le, h.busy_not_done, h.busy_no_error, h.busy_cmd, h.results⟩

theorem Inv.completeOf {s : State} (h : Inv s) (i : Instr) : Inv (completeOf i s) :=
  .of_idle (completeOf_ends i s).1 (completeOf_errCode_le i s) (resultsAgree_completeOf i s h.results)

theorem Inv.performRead {s : State} (h : Inv s) (w : BitVec 8) : Inv (performRead w s) :=
  ⟨h.errCode_le, h.busy_not_done, h.busy_no_error, h.busy_cmd, h.results⟩

theorem inv_resetBlock (s : State) : Inv (resetBlock s) :=
  .of_idle rfl (Nat.zero_le _) (resultsAgree_of_erased rfl rfl)

/-- A start makes CMD and PENDING_CMD equal and clears DONE and ERR_CODE (R170). -/
theorem Inv.ctrlWrite_of_idle {s : State} (h : Inv s) (v : Word) (hidle : s.phase = .idle) : Inv (ctrlWrite v s) := by
  rw [ctrlWrite_idle v s hidle]
  split
  · exact ⟨Nat.zero_le _, fun _ => rfl, fun _ => rfl, fun _ => rfl, h.results⟩
  · exact .of_idle hidle h.errCode_le h.results

theorem Inv.storeReg_of_idle {s : State} (h : Inv s) (r : Reg) (v : Word) (hidle : s.phase = .idle) :
    Inv (storeReg r v s) := by
  cases r <;> exact .of_idle hidle h.errCode_le h.results

theorem Inv.busWrite_of_idle {s : State} (h : Inv s) (w : BitVec 8) (v : Word) (hidle : s.phase = .idle) :
    Inv (busWrite w v s) := by
  obtain ⟨-, e⟩ | ⟨-, e⟩ | ⟨-, -, e⟩ := busWrite_cases w v s
  · rw [e]; exact h.ctrlWrite_of_idle v hidle
  · rw [e]; exact .of_idle hidle h.errCode_le h.results
  · rw [e, dataWrite_idle _ v s hidle]; exact h.storeReg_of_idle _ v hidle

/-- While BUSY a bus write may clear DONE, but does not set it (R30). -/
theorem Inv.busWrite_of_busy {s : State} (h : Inv s) (w : BitVec 8) (v : Word) (hbusy : s.phase = .busy) :
    Inv (busWrite w v s) := by
  have hdone : (busWrite w v s).done = false := by
    obtain e | ⟨-, e, -⟩ := busWrite_done w v s
    · exact e.trans (h.busy_not_done hbusy)
    · exact e
  rw [busWrite_busy_frame w v s hbusy]
  exact ⟨h.errCode_le, fun _ => hdone, h.busy_no_error, h.busy_cmd, h.results⟩

theorem Inv.busWrite {s : State} (h : Inv s) (w : BitVec 8) (v : Word) : Inv (busWrite w v s) :=
  (phase_cases s).elim (h.busWrite_of_idle w v) (h.busWrite_of_busy w v)

/-! ### The step -/

/-- Settles O47: each operation that a step can be keeps the invariant. -/
theorem stepKeepsInv : Obligations.StepKeepsInv := by
  intro s t hinv h
  obtain ⟨-, -, p, rfl⟩ | ⟨-, -, p, rfl⟩ | ⟨-, p, rfl⟩ | ⟨w, p, rfl⟩ | ⟨w, v, p, -, rfl⟩ := step_cases s t h
  · exact (hinv.port_turn p .core).completeOf _
  · exact hinv.port_turn p s.turn
  · exact inv_resetBlock _
  · exact (hinv.port_turn p .host).performRead w
  · exact (hinv.port_turn p .host).busWrite w v

end Sys2Proof.Machine
end

section
/-! What the machine stops on, and what it does when nothing is left to do (60_exceptions.md R236, R255). -/

namespace Sys2Proof.Machine

/-- Settles O13: each kind of input but a platform access has its next state. -/
theorem onlyPlatformAccessStops : Obligations.OnlyPlatformAccessStops := by
  intro s hplatform
  cases hp : s.port with
  | nil =>
    obtain hq | hq := phase_cases s
    · exact ⟨_, step_core_idle s hq hp⟩
    · exact ⟨_, step_core_busy s hq hp⟩
  | cons e rest =>
    cases e with
    | bus a => exact ⟨_, step_bus s a rest hp⟩
    | memRead addr n => cases hplatform _ rest hp
    | memWrite addr n v => cases hplatform _ rest hp
    | core =>
      obtain hq | hq := phase_cases s
      · exact ⟨_, step_core_turn_idle s rest hq hp⟩
      · exact ⟨_, step_core_turn_busy s rest hq hp⟩
    | reset => exact ⟨_, step_reset s rest hp⟩

/-- Settles O45: with no input left and the core IDLE a step changes nothing, by induction on the steps. -/
theorem idleCoreKeepsItsState : Obligations.IdleCoreKeepsItsState := by
  intro s n hover
  obtain ⟨hport, hidle⟩ := hover
  induction n with
  | zero => rfl
  | succ n ih => rw [run_succ_next s s n (step_core_idle s hidle hport), ih]

end Sys2Proof.Machine
end

section
/-! The interrupt (60_exceptions.md R240, R241), and a transaction that arrives together with a completion (R243). -/

namespace Sys2Proof.Machine

/-! ### irq -/

theorem irq_of_not_done {s : State} (h : s.done = false) : s.irq = false := by
  rw [State.irq, h, Bool.and_false]

/-- A CTRL write stores IE, BUSY or not (R63, R64). -/
theorem ctrlWrite_ie (v : Word) (s : State) : (ctrlWrite v s).ie = ieField v := by
  obtain hq | hq := phase_cases s
  · rw [ctrlWrite_idle v s hq]; split <;> rfl
  · rw [ctrlWrite_busy v s hq]; split <;> rfl

/-- A CTRL write that starts no command leaves DONE. -/
theorem ctrlWrite_done (v : Word) (s : State) (h : startBit v = false ∨ s.phase = .busy) :
    (ctrlWrite v s).done = s.done := by
  obtain hq | hq := phase_cases s
  · rw [ctrlWrite_idle v s hq, if_neg (by simpa [hq] using h)]
  · rw [ctrlWrite_busy v s hq]; split <;> rfl

theorem ctrlWrite_irq (v : Word) (s : State) : (ctrlWrite v s).irq = (ieField v && (ctrlWrite v s).done) := by
  rw [State.irq, ctrlWrite_ie]

/-- Settles O41: the CTRL write stores IE, of which irq is made. -/
theorem irqFollowsIe : Obligations.IrqFollowsIe := by
  intro s v rest hp
  exact ⟨_, step_bus s (.write 2 v) rest hp, ctrlWrite_ie v _, ctrlWrite_irq v _,
    ctrlWrite_done v { s with port := rest, turn := .host }⟩

/-- Settles O40: a completion ends IDLE with DONE set, from where each way to mask or drop irq is one operation. -/
theorem completionRaisesIrq : Obligations.CompletionRaisesIrq := by
  refine ⟨fun _ => rfl, fun i j s hdue => ?_⟩
  obtain ⟨hidle, hdone⟩ := completeOf_ends i s
  refine ⟨_, exec_complete i s hdue, hdone, ?raised, ?enabled, ?masked, irq_of_not_done rfl,
    ⟨_, exec_start_idle j _ ⟨rfl, hidle⟩, rfl, irq_of_not_done rfl⟩, ⟨_, step_reset _ [] rfl, irq_of_not_done rfl⟩⟩
  case raised => rw [State.irq, completeOf_ie, hdone, Bool.and_true]
  case enabled =>
    change (ctrlWrite 0x100 _).irq = true
    rw [ctrlWrite_irq, ctrlWrite_done _ _ (.inl rfl), hdone]; rfl
  case masked =>
    change (ctrlWrite 0x000 _).irq = false
    rw [ctrlWrite_irq]; rfl

/-! ### A transaction and a completion -/

/-- BUSY and DONE as the two low bits of STATUS (R62). -/
theorem statusWord_extract (s : State) :
    s.statusWord.extractLsb' 0 2 = (if s.done then 2 else 0) + (if s.phase = .busy then 1 else 0) := by
  have hmask : s.statusWord.extractLsb' 0 2 = (s.statusWord &&& 0x3).extractLsb' 0 2 := by
    ext n hn; interval_cases n <;> simp
  rw [hmask, statusWord_low]
  cases s.done <;> cases s.phase <;> rfl

/-- A write of an operand word while BUSY is dropped (R64). -/
theorem busWrite_operand_busy (w : BitVec 8) (v : Word) (s : State) (hbusy : s.phase = .busy)
    (hw : 4 ≤ w.toNat ∧ w.toNat ≤ 7 ∨ 16 ≤ w.toNat ∧ w.toNat ≤ 36) : busWrite w v s = dropWrite s := by
  rw [busWriteWhileBusy s w v hbusy, if_neg (by rintro rfl; simp at hw), if_neg (by rintro rfl; simp at hw), if_pos hw]
  rfl

/-- A completion does not look at the inputs that wait. -/
theorem completeOf_setPort (i : Instr) (s : State) (p : List Event) :
    completeOf i { s with port := p } = { completeOf i s with port := p } := by
  rw [completeOf_congr i i rfl s { s with port := p } rfl]
  simp only [← completeOf_ie i s, ← completeOf_wovr i s, ← completeOf_rdata i s, ← completeOf_draws i s,
    ← completeOf_turn i s]

/-- A completion does not look at WOVR. -/
theorem completeOf_dropWrite (i : Instr) (s : State) :
    completeOf i (dropWrite s) = dropWrite (completeOf i s) := by
  rw [completeOf_congr i i rfl s (dropWrite s) rfl]
  simp only [dropWrite, ← completeOf_ie i s, ← completeOf_port i s, ← completeOf_rdata i s, ← completeOf_draws i s,
    ← completeOf_turn i s]

/-- s after the completion of the pending command, with no input left. -/
def State.afterCompletion (s : State) : State :=
  completeOf (instrOfCode s.pendingCmd s.ie) { s with port := [], turn := .core }

theorem afterCompletion_statusWord (s : State) : s.afterCompletion.statusWord.extractLsb' 0 2 = 2 := by
  obtain ⟨hidle, hdone⟩ := completeOf_ends (instrOfCode s.pendingCmd s.ie) { s with port := [], turn := .core }
  rw [statusWord_extract, State.afterCompletion, hidle, hdone]; rfl

theorem afterCompletion_dropWrite (s : State) : (dropWrite s).afterCompletion = dropWrite s.afterCompletion :=
  completeOf_dropWrite _ { s with port := [], turn := .core }

/-- The Core's turn alone. -/
theorem run_core (s : State) (hbusy : s.phase = .busy) :
    core.run 1 { s with port := [.core] } = .next s.afterCompletion :=
  run_one _ _ (step_core_turn_busy { s with port := [.core] } [] hbusy rfl)

/-- The transaction first: it meets a BUSY core. -/
theorem run_bus_core (s : State) (a : Access) (hbusy : s.phase = .busy) :
    core.run 2 { s with port := [.bus a, .core] } =
      .next (serve a { s with port := [.core], turn := .host }).afterCompletion :=
  run_two _ _ _ (step_bus _ a [.core] rfl)
    (step_core_turn_busy _ [] ((serve_taken_busy_sameCompletion a s [.core] hbusy).phase_eq.trans hbusy)
      (serve_port a _))

/-- The completion first: the transaction meets an IDLE core. -/
theorem run_core_bus (s : State) (a : Access) (hbusy : s.phase = .busy) :
    core.run 2 { s with port := [.core, .bus a] } = .next (serve a { s.afterCompletion with turn := .host }) := by
  have hcore := step_core_turn_busy { s with port := [.core, .bus a] } [.bus a] hbusy rfl
  have hbus := step_bus _ a [] (completeOf_port (instrOfCode s.pendingCmd s.ie) { s with port := [.bus a], turn := .core })
  rw [run_two _ _ _ hcore hbus, State.afterCompletion, completeOf_setPort _ { s with turn := .core } [.bus a],
    completeOf_setPort _ { s with turn := .core } []]

/-- Settles O42: whichever is first, the transaction meets the state before the completion or the one after it. -/
theorem simultaneousEventsInEitherOrder : Obligations.SimultaneousEventsInEitherOrder := by
  intro s hinv hbusy
  refine ⟨⟨_, run_bus_core s (.read 3) hbusy, ?readBefore⟩, ⟨_, run_core_bus s (.read 3) hbusy, ?readAfter⟩,
    ⟨_, run_core s hbusy, (completeOf_ends _ _).1, completeOf_wovr _ _,
      fun w v hw => ⟨?writeBefore, run_core_bus s (.write w v) hbusy⟩⟩⟩
  case readBefore =>
    have hdone : s.done = false := hinv.busy_not_done hbusy
    rw [State.afterCompletion, completeOf_rdata]
    change (busRead 3 _).extractLsb' 0 2 = 1
    rw [busRead_status, statusWord_extract, hdone, hbusy]; rfl
  case readAfter =>
    change (busRead 3 _).extractLsb' 0 2 = 2
    rw [busRead_status]
    exact afterCompletion_statusWord s
  case writeBefore =>
    rw [run_bus_core s _ hbusy]
    change Host.Outcome.next (busWrite w v _).afterCompletion = _
    rw [busWrite_operand_busy w v { s with port := [.core], turn := .host } hbusy hw, afterCompletion_dropWrite]
    rfl

end Sys2Proof.Machine
end

section
/-! A reset, from every state and of a core in the middle of a command, and the end of every command that is not reset
(70_reset_and_hazards.md R260, R261, R270). -/

namespace Sys2Proof.Machine

/-! ### The reset state (R260) -/

/-- Settles O46: the reset state is the reset of itself, and every reset leaves the invariant. -/
theorem invHoldsAtReset : Obligations.InvHoldsAtReset := inv_resetBlock State.reset

/-- A reset erases the key buffer, the digest and the code characters, word by word. -/
theorem resetBlock_words (s : State) :
    (∀ j : Fin 16, (resetBlock s).key[j] = 0) ∧ (∀ j : Fin 5, (resetBlock s).digest[j] = 0) ∧
      ∀ j : Fin 3, (resetBlock s).codeChr[j] = 0 :=
  ⟨fun j => Vector.getElem_replicate j.isLt, fun j => Vector.getElem_replicate j.isLt,
    fun j => Vector.getElem_replicate j.isLt⟩

/-- Settles O1: the step is `resetBlock`, whose fields are the reset column of the map, and the four words are read from
those fields. -/
theorem resetSetsEveryRegister : Obligations.ResetSetsEveryRegister := by
  intro s rest hp
  obtain ⟨hkey, hdigest, hchr⟩ := resetBlock_words { s with port := rest }
  refine ⟨_, step_reset s rest hp, rfl, rfl, rfl, rfl, rfl, rfl, rfl, rfl, rfl, rfl, rfl, hkey, hdigest, rfl, rfl, rfl,
    hchr, ?id, ?caps, ?ctrl, ?status, irq_of_not_done rfl⟩
  all_goals rw [busRead_eq_shown]; rfl

/-! ### A reset while BUSY (R261) -/

/-- The Core's turns while IDLE are used up and change nothing else, by induction on their number. -/
theorem run_core_turns_idle (n : Nat) (s : State) (hidle : s.phase = .idle) (hp : s.port = List.replicate n .core) :
    core.run n s = .next { s with port := [] } := by
  induction n generalizing s with
  | zero =>
    have hnil : s.port = [] := hp
    rw [← hnil]; rfl
  | succ n ih =>
    rw [run_succ_next s _ n (step_core_turn_idle s (List.replicate n .core) hidle hp)]
    exact ih { s with port := List.replicate n .core } hidle rfl

/-- Settles O3: the reset leaves the core IDLE, so none of the turns that follow completes anything. -/
theorem resetAbandonsTheCommand : Obligations.ResetAbandonsTheCommand := by
  intro s n _ hp
  have hrun := (run_succ_next s _ n (step_reset s _ hp)).trans (run_core_turns_idle n _ rfl rfl)
  obtain ⟨hkey, hdigest, hchr⟩ := resetBlock_words s
  exact ⟨_, hrun, rfl, rfl, rfl, hkey, rfl, hdigest, rfl, rfl, rfl, hchr⟩

/-! ### A command that is not reset (R270, R172) -/

/-- Settles O44: after the transactions the core is still BUSY and no input is left, so the next step is the completion. -/
theorem busyCommandCompletes : Obligations.BusyCommandCompletes := by
  intro s accesses hbusy hp
  obtain ⟨t, hrun, hport, hsame⟩ := run_bus_busy accesses [] 1 s hbusy (by rw [hp, List.append_nil])
  have hstep := step_core_busy t (hsame.phase_eq.trans hbusy) hport
  obtain ⟨hidle, hdone⟩ := completeOf_ends (instrOfCode t.pendingCmd t.ie) { t with turn := .core }
  exact ⟨_, hrun.trans (run_one t _ hstep), hdone, (completeOf_port _ _).trans hport, hidle⟩

end Sys2Proof.Machine
end

section
/-! What a reset leaves of the state before it (70_reset_and_hazards.md R260; log entry 9). -/

namespace Sys2Proof.Machine

/-- Settles O2: the reset step is `resetBlock` of the state with the input used up, and `resetBlock` takes the port, the
read output and the draw count from that state and every other field from `State.reset`. -/
theorem resetKeepsTheInputs : Obligations.ResetKeepsTheInputs := by
  intro s rest hp
  have hblock : resetBlock { s with port := rest } =
      { State.reset with port := rest, rdata := s.rdata, draws := s.draws } := rfl
  rw [step_reset s rest hp, hblock]

end Sys2Proof.Machine
end
